-- ==== Sys2Proof/Word.lean ====
section
/-! DEFINITION. The machine's two word types (spec/20_memory.md R60, R69): registers are 32 bits,
characters and pixels are 8 bits, all unsigned (spec/00_scope.md R9). -/

namespace Sys2Proof

/-- A register of the space REG, or a command word. -/
abbrev Word := BitVec 32

/-- An entry of PBUF (a character code) or of RMEM (a pixel, 0 the darkest value). -/
abbrev Byte := BitVec 8

end Sys2Proof
end

