-- ==== Sys2Proof/Config.lean ====
section
/-! DEFINITION. What one implementation of the block fixes (spec/00_scope.md R6), and the free values
the spec leaves open (spec/10_state.md R43). -/

namespace Sys2Proof

/-- The implementation parameters of R6. A block carries one `Config` for its whole life. -/
structure Config where
  /-- `K`, the side of the block of pixels one cell becomes. -/
  k : Nat
  /-- `T`, the cutoff: a pixel is black iff it is below it. -/
  t : Nat
  /-- `BLACK`, the pixel the encoder writes for a black cell. -/
  black : Byte
  /-- `WHITE`, the pixel the encoder writes for a white cell. -/
  white : Byte
  /-- `C0`, the code of the character '0'. -/
  c0 : Byte
  /-- `C1`, the code of the character '1'. -/
  c1 : Byte
  /-- `PMAX`, how many entries PBUF has. -/
  pmax : Nat
  /-- `RMAX`, how many entries RMEM has. -/
  rmax : Nat
  deriving DecidableEq, Repr

/-- The defaults of R6, which the spec's test vectors use. -/
def Config.standard : Config where
  k := 50
  t := 128
  black := 0
  white := 255
  c0 := 0x30
  c1 := 0x31
  pmax := 32
  rmax := 262144

/-- FREE VALUE (R43, log 2): what entry `i` of PBUF holds after the `n`-th reset, until something is
written there. It has no body, so nothing can be proved of the value. -/
opaque Config.unspecifiedPbuf (n i : Nat) : Byte

/-- FREE VALUE (R43, log 2): what entry `a` of RMEM holds after the `n`-th reset, until something is
written there. -/
opaque Config.unspecifiedRmem (n a : Nat) : Byte

end Sys2Proof
end

