-- ==== Sys2Proof/Syntax.lean ====
section
/-! DEFINITION. The commands (spec/30_encoding.md R91), the names of the registers (spec/10_state.md R21),
the host's accesses (spec/20_memory.md R60) and its script (spec/30_encoding.md R99, R100). -/

namespace Sys2Proof

/-- One constructor per row of the opcode table (R91). No command carries an operand (R94). -/
inductive Instr where
  | geom
  | encode
  | decode
  | parapp
  | parchk
  deriving DecidableEq, Repr

/-- Why a word is no command (R96). -/
inductive DecodeReject where
  /-- Any word other than 1 to 5. -/
  | illegalCommand
  deriving DecidableEq, Repr

/-- The registers of the space REG (R21). -/
inductive Reg where
  | cmd
  | status
  | size
  | len
  | width
  | height
  | geomout
  | param0
  | param1
  /-- GRID0 to GRID6: one row of the grid store each. -/
  | grid (y : Fin 7)
  deriving DecidableEq, Repr

/-- `Access(space, we, index, wdata)` (R60): a constructor for each space and direction, so that data
has the width of its space. `index` is any element index, in the space or not. -/
inductive Access where
  | readReg (index : Nat)
  | writeReg (index : Nat) (wdata : Word)
  | readPbuf (index : Nat)
  | writePbuf (index : Nat) (wdata : Byte)
  | readRmem (index : Nat)
  | writeRmem (index : Nat) (wdata : Byte)
  deriving DecidableEq, Repr

/-- What the host does in one go: an access, or one round of the waiting construct (R100). -/
inductive HostOp where
  | access (a : Access)
  /-- `WAIT`: read STATUS again until the value read has DONE set. -/
  | wait
  deriving DecidableEq, Repr

/-- The three kinds of event in the block's total order (spec/20_memory.md R73). -/
inductive Turn where
  /-- The host does its next operation. -/
  | host
  /-- The engine's step, if it is enabled. -/
  | engine
  /-- The reset input is applied. -/
  | reset
  deriving DecidableEq, Repr

/-- A statement or pseudo-statement of a host script (R99, R100). -/
inductive Stmt where
  | wr (reg : Reg) (v : Word)
  | rd (reg : Reg)
  | wp (i : Nat) (c : Byte)
  | rp (i : Nat)
  | wx (a : Nat) (p : Byte)
  | rx (a : Nat)
  | geom
  | encode
  | decode
  | parapp
  | parchk
  | wait
  | loadstr (s : List Char)
  | loadimg (w h : Word) (pixels : List Byte)
  deriving DecidableEq, Repr

end Sys2Proof
end

