-- ==== Sys2Proof/WellFormed.lean ====
section
/-! DEFINITION. Which configurations, instructions and script statements are well formed. -/

namespace Sys2Proof

/-- The constraints on the parameters (spec/00_scope.md R7). The bounds `C0, C1 <= 255` and
`BLACK, WHITE <= 255` are in the type `Byte`. -/
abbrev Config.Legal (c : Config) : Prop :=
  (1 ≤ c.k ∧ c.k ≤ 65535) ∧
  (1 ≤ c.t ∧ c.t ≤ 255) ∧
  (c.black.toNat < c.t ∧ c.t ≤ c.white.toNat) ∧
  c.c0 ≠ c.c1 ∧
  (25 ≤ c.pmax ∧ c.pmax ≤ 255) ∧
  (49 * c.k * c.k ≤ c.rmax ∧ c.rmax ≤ 2 ^ 32 - 1)

/-- A command has no operand (spec/30_encoding.md R90, R94), so there is nothing to be ill formed. -/
def Instr.wf : Instr → Bool
  | .geom => true
  | .encode => true
  | .decode => true
  | .parapp => true
  | .parchk => true

/-- A statement means something when its list of pixels fills its raster, and its string is of
characters that have an 8-bit code (spec/30_encoding.md R100; log 11, log 20). -/
def Stmt.wf : Stmt → Bool
  | .loadstr s => s.all fun c => c.toNat < 256
  | .loadimg w h pixels => pixels.length == w.toNat * h.toNat
  | .wr .. | .rd .. | .wp .. | .rp .. | .wx .. | .rx .. => true
  | .geom | .encode | .decode | .parapp | .parchk | .wait => true

end Sys2Proof
end

