-- ==== Sys2Proof/Decode.lean ====
section
/-! DEFINITION. Command words to commands and back (spec/30_encoding.md R90, R91, R96). -/

namespace Sys2Proof

/-- The engine compares the whole word with each opcode (R91); every other word is illegal (R96). -/
def decode (w : Word) : Except DecodeReject Instr :=
  if w = 0x00000001 then .ok .geom
  else if w = 0x00000002 then .ok .encode
  else if w = 0x00000003 then .ok .decode
  else if w = 0x00000004 then .ok .parapp
  else if w = 0x00000005 then .ok .parchk
  else .error .illegalCommand

/-- The word of each command (R91). -/
def encode : Instr → Word
  | .geom => 0x00000001
  | .encode => 0x00000002
  | .decode => 0x00000003
  | .parapp => 0x00000004
  | .parchk => 0x00000005

/-- The command that the block reads from an instruction of `nbits` bits `w`. A command is one 32-bit
word (R90), so no byte order arises and nothing longer is a command (log 17). -/
def decodeTableWord (nbits w : Nat) : Option Instr :=
  if nbits ≤ 32 ∧ w < 2 ^ nbits then
    match decode (BitVec.ofNat 32 w) with
    | .ok i => some i
    | .error _ => none
  else none

end Sys2Proof
end

