-- ==== Sys2Proof/Machine/State.lean ====
section
/-! DEFINITION. The whole state of one block (spec/10_state.md R20), as plain data, and the state after
reset (R43). Beside what the spec names stand four fields of the model's own, in `Env`, and the
configuration the block was built with. -/

namespace Sys2Proof.Machine

/-- The two size classes (spec/00_scope.md R2). -/
inductive SizeClass where
  | small
  | large
  deriving DecidableEq, Repr

/-- The error kinds (spec/60_exceptions.md R186). -/
inductive ErrorKind where
  | invalidCharset
  | invalidSizeClass
  | lengthMismatch
  | unrecognizedSize
  | imageLoadFailure
  | illegalCommand
  | bufferOverflow
  deriving DecidableEq, Repr

/-- A grid cell, and the class of a binarized pixel: 0 is black ("on"), 1 is white ("off")
(spec/00_scope.md R13, R15). -/
inductive Cell where
  | black
  | white
  deriving DecidableEq, Repr

/-- The grid store, row first: `g[y][x]` is the cell in column `x` of row `y` (R38). -/
abbrev Grid := Vector (Vector Cell 7) 7

/-- The grid store after reset: all 49 cells white (R43). -/
def Grid.blank : Grid := Vector.replicate 7 (Vector.replicate 7 .white)

/-- PBUF or RMEM: the entries written since the last reset, by index, the indices strictly rising. An
index that is not listed was not written since then (log 3). -/
abbrev Memory := List Host.Cell

/-- The fields of REG.STATUS (R27). The reserved bits 31:9 have no storage (R44, log 18). -/
structure Status where
  busy : Bool
  done : Bool
  err : Bool
  parok : Bool
  /-- ECODE: the kind of the last completed command's error, none for the code 0 (R32). -/
  ecode : Option ErrorKind
  ovr : Bool
  deriving DecidableEq, Repr

/-- STATUS = 0x00000000 (R43). -/
def Status.zero : Status where
  busy := false
  done := false
  err := false
  parok := false
  ecode := none
  ovr := false

/-- The fields of REG.GEOMOUT (R36). Bits 31:24 have no storage (R44, log 18). -/
structure GeomOut where
  n : BitVec 8
  cap : BitVec 8
  trans : BitVec 8
  deriving DecidableEq, Repr

/-- GEOMOUT = 0x00000000 (R43). -/
def GeomOut.zero : GeomOut where
  n := 0
  cap := 0
  trans := 0

/-- `resp` of an access (spec/20_memory.md R60). -/
inductive Resp where
  | ok
  | err
  deriving DecidableEq, Repr

/-- `rdata` of an access: 32 bits from REG, 8 bits from PBUF and RMEM (R60). -/
inductive RData where
  | word (w : Word)
  | byte (b : Byte)
  deriving DecidableEq, Repr

/-- What an access returns (R60). There is data only for a read that is served. -/
structure Reply where
  resp : Resp
  rdata : Option RData
  deriving DecidableEq, Repr

/-- The model's own fields: what the world around the block is going to do, and what it got back. -/
structure Env where
  /-- How many resets there have been; the free values of PBUF and RMEM are taken at it (log 2). -/
  resets : Nat
  /-- The host's remaining operations, the next one first (log 4, log 9). -/
  script : List HostOp
  /-- The kinds of the coming events, the next one first (log 4). -/
  turns : List Turn
  /-- The answer to the host's latest access, none before its first (log 10). -/
  reply : Option Reply
  deriving DecidableEq, Repr

/-- The state of one block: its configuration, its registers, its stores, and the model's own `Env`.
PARAM0 and PARAM1 are computed from `cfg` (R33, R34), GRID0 to GRID6 from `grid` (R37). -/
structure State where
  cfg : Config
  cmd : Word
  status : Status
  size : Word
  len : Word
  width : Word
  height : Word
  geomout : GeomOut
  grid : Grid
  pbuf : Memory
  rmem : Memory
  env : Env
  deriving DecidableEq, Repr

/-- The block has no fault: every command completes, with an error code where it must, and every
access gets an answer (spec/70_reset_and_hazards.md R226, spec/93_implementation_defined.md; log 8). -/
inductive Fault where
  deriving DecidableEq, Repr

/-- Why the model would have no meaning for an instruction. -/
inductive Refusal where
  /-- Raised by no arm: every command has its meaning (log 8). It would be safe, a run that stops. -/
  | notModelled (mnemonic : String)
  deriving DecidableEq, Repr

/-- The values of R43, in a block built with the default parameters. Every entry of PBUF and RMEM is
unspecified, so neither lists one; the model's own fields start empty (log 1, log 6). -/
def State.reset : State where
  cfg := Config.standard
  cmd := 0x00000000
  status := Status.zero
  size := 0x00000005
  len := 0x00000000
  width := 0x00000000
  height := 0x00000000
  geomout := GeomOut.zero
  grid := Grid.blank
  pbuf := []
  rmem := []
  env := { resets := 0, script := [], turns := [], reply := none }

end Sys2Proof.Machine
end

