-- ==== Sys2Proof/Machine/Flags.lean ====
section
/-! DEFINITION. The fields of the read-only registers as words, the codes of the errors, and every
change a command or a CMD write makes to STATUS. -/

namespace Sys2Proof.Machine

/-- The number an error kind has in STATUS.ECODE (spec/60_exceptions.md R186). -/
def ErrorKind.code : ErrorKind → Nat
  | .invalidCharset => 1
  | .invalidSizeClass => 2
  | .lengthMismatch => 3
  | .unrecognizedSize => 4
  | .imageLoadFailure => 5
  | .illegalCommand => 6
  | .bufferOverflow => 7

/-- STATUS.ECODE as a number: 0 when there is no error (R186). -/
def Status.ecodeNat (st : Status) : Nat :=
  match st.ecode with
  | none => 0
  | some e => e.code

/-- REG.STATUS as the host reads it: BUSY, DONE, ERR, PAROK in bits 0 to 3, ECODE in bits 7:4, OVR in
bit 8, the others 0 (spec/10_state.md R27, R44). -/
def Status.toWord (st : Status) : Word :=
  BitVec.ofNat 32 (st.busy.toNat + st.done.toNat * 2 ^ 1 + st.err.toNat * 2 ^ 2 +
    st.parok.toNat * 2 ^ 3 + st.ecodeNat * 2 ^ 4 + st.ovr.toNat * 2 ^ 8)

/-- An accepted CMD write sets BUSY and clears DONE, ERR and ECODE (spec/30_encoding.md R92). -/
def Status.start (st : Status) : Status :=
  { st with busy := true, done := false, err := false, ecode := none }

/-- `complete` clears BUSY and sets DONE (spec/60_exceptions.md R189). -/
def Status.complete (st : Status) : Status :=
  { st with busy := false, done := true }

/-- `raise E` clears BUSY, sets DONE and ERR and writes ECODE (R190). -/
def Status.raise (e : ErrorKind) (st : Status) : Status :=
  { st with busy := false, done := true, err := true, ecode := some e }

/-- A rejected access sets the sticky OVR (spec/20_memory.md R64). -/
def Status.setOvr (st : Status) : Status :=
  { st with ovr := true }

/-- The result of a PARCHK that completes (spec/43_integrity.md R174). -/
def Status.setParok (b : Bool) (st : Status) : Status :=
  { st with parok := b }

/-- REG.GEOMOUT as the host reads it: N in bits 7:0, CAP in 15:8, TRANS in 23:16, the others 0
(spec/10_state.md R36). -/
def GeomOut.toWord (g : GeomOut) : Word :=
  BitVec.ofNat 32 (g.n.toNat + g.cap.toNat * 2 ^ 8 + g.trans.toNat * 2 ^ 16)

/-- REG.PARAM0: K, T and PMAX (spec/10_state.md R33). -/
def param0 (c : Config) : Word :=
  BitVec.ofNat 32 (c.k + c.t * 2 ^ 16 + c.pmax * 2 ^ 24)

/-- REG.PARAM1: RMAX (spec/10_state.md R34). -/
def param1 (c : Config) : Word :=
  BitVec.ofNat 32 c.rmax

/-- A cell as a bit: 0 black, 1 white (spec/00_scope.md R13). -/
def Cell.bit : Cell → Bool
  | .black => false
  | .white => true

/-- REG.GRIDy: bit `x` is the cell in column `x`, bits 31:7 are 0 (spec/10_state.md R37). -/
def rowWord (row : Vector Cell 7) : Word :=
  (BitVec.ofFnLE fun x : Fin 7 => row[x].bit).setWidth 32

end Sys2Proof.Machine
end

