-- ==== Sys2Proof/Machine/Ops.lean ====
section
/-! DEFINITION. The named operations over the stores and the registers; how a command starts, completes
and raises an error; and reset. -/

namespace Sys2Proof.Machine

/-! ## Memory -/

/-- The value stored at index `i`, none where nothing was written since the last reset. -/
def Memory.get? : Memory → Nat → Option Byte
  | [], _ => none
  | (a, b) :: m, i => if i = a then some b else Memory.get? m i

/-- Store `b` at index `i`, keeping the indices rising. -/
def Memory.set : Memory → Nat → Byte → Memory
  | [], i, b => [(i, b)]
  | (a, c) :: m, i, b =>
    if i < a then (i, b) :: (a, c) :: m
    else if i = a then (i, b) :: m
    else (a, c) :: Memory.set m i b

/-- The entries `start, …, start + n - 1`, holding `f` of their indices. -/
def Memory.block (f : Nat → Byte) : (start n : Nat) → Memory
  | _, 0 => []
  | start, n + 1 => (start, f start) :: Memory.block f (start + 1) n

/-- Store `f i` at every index `i < n` and leave the others alone: what ENCODE does to RMEM and DECODE
to PBUF, as one event (spec/30_encoding.md R93; log 13). -/
def Memory.writePrefix (m : Memory) (n : Nat) (f : Nat → Byte) : Memory :=
  Memory.block f 0 n ++ m.filter fun c => decide (n ≤ c.1)

/-- The canonical form: indices strictly rising. An unlisted index stores no value at all, so no entry
can equal what an unlisted index stores (log 3). -/
abbrev Memory.wf (m : Memory) : Prop := (m.map Prod.fst).Pairwise (· < ·)

/-- Every listed index is inside a space of `n` entries. -/
abbrev Memory.below (n : Nat) (m : Memory) : Prop := ∀ c ∈ m, c.1 < n

/-! ## The stores of a block -/

/-- `PBUF[i]` (spec/00_scope.md R11): the value written last, or the unspecified one (R69). -/
def State.readPbuf (s : State) (i : Nat) : Byte :=
  (Memory.get? s.pbuf i).getD (Config.unspecifiedPbuf s.env.resets i)

/-- `RMEM[a]` (spec/00_scope.md R11). -/
def State.readRmem (s : State) (a : Nat) : Byte :=
  (Memory.get? s.rmem a).getD (Config.unspecifiedRmem s.env.resets a)

/-- `PBUF[i] <- c`. -/
def State.writePbuf (s : State) (i : Nat) (c : Byte) : State :=
  { s with pbuf := Memory.set s.pbuf i c }

/-- `RMEM[a] <- p`. -/
def State.writeRmem (s : State) (a : Nat) (p : Byte) : State :=
  { s with rmem := Memory.set s.rmem a p }

/-- The cell in column `x`, row `y` of a grid; outside the store there is none, and white is given. -/
def Grid.cell (g : Grid) (x y : Nat) : Cell :=
  if h : x < 7 ∧ y < 7 then (g[y]'h.2)[x]'h.1 else .white

/-- The grid whose cell in column `x`, row `y` is `f x y`. -/
def Grid.ofFn (f : Nat → Nat → Cell) : Grid :=
  Vector.ofFn fun y : Fin 7 => Vector.ofFn fun x : Fin 7 => f x y

/-! ## Registers -/

/-- The number of a register in the space REG (spec/10_state.md R21). -/
def regIndex : Reg → Nat
  | .cmd => 0
  | .status => 1
  | .size => 2
  | .len => 3
  | .width => 4
  | .height => 5
  | .geomout => 6
  | .param0 => 7
  | .param1 => 8
  | .grid y => 9 + y

/-- The register with a number; 16 and above are unmapped (spec/20_memory.md R70). -/
def regOfIndex (i : Nat) : Option Reg :=
  match i with
  | 0 => some .cmd
  | 1 => some .status
  | 2 => some .size
  | 3 => some .len
  | 4 => some .width
  | 5 => some .height
  | 6 => some .geomout
  | 7 => some .param0
  | 8 => some .param1
  | n + 9 => if h : n < 7 then some (.grid ⟨n, h⟩) else none

/-- The current value of a register (spec/20_memory.md R61). -/
def State.readReg (s : State) : Reg → Word
  | .cmd => s.cmd
  | .status => s.status.toWord
  | .size => s.size
  | .len => s.len
  | .width => s.width
  | .height => s.height
  | .geomout => s.geomout.toWord
  | .param0 => Machine.param0 s.cfg
  | .param1 => Machine.param1 s.cfg
  | .grid y => rowWord s.grid[y]

/-- A CMD write that is served: the word is kept and the command started (spec/30_encoding.md R92). -/
def State.startCommand (s : State) (v : Word) : State :=
  { s with cmd := v, status := s.status.start }

/-- A served register write: SIZE, LEN, WIDTH and HEIGHT store all 32 bits, CMD starts a command
(spec/20_memory.md R61), and the read-only registers ignore it (R62). -/
def State.writeReg (s : State) (r : Reg) (v : Word) : State :=
  match r with
  | .cmd => s.startCommand v
  | .size => { s with size := v }
  | .len => { s with len := v }
  | .width => { s with width := v }
  | .height => { s with height := v }
  | .status | .geomout | .param0 | .param1 | .grid _ => s

/-! ## The two ways a command ends, and reset -/

/-- `complete` (spec/60_exceptions.md R189). -/
def State.complete (s : State) : State :=
  { s with status := s.status.complete }

/-- `raise E`, the block's one way to take an error (R190): STATUS only, nothing saved and nothing
to return from (R192). -/
def State.raise (s : State) (e : ErrorKind) : State :=
  { s with status := s.status.raise e }

/-- The reset event (spec/70_reset_and_hazards.md R215, R216): registers and grid store at their reset
values, every entry of PBUF and RMEM unspecified anew, the parameters kept (R217). What the world
around the block is going to do is not the block's to reset (log 14). -/
def State.resetBlock (s : State) : State :=
  { State.reset with
    cfg := s.cfg
    env := { s.env with resets := s.env.resets + 1 } }

end Sys2Proof.Machine
end

