-- ==== Sys2Proof/Machine/Operands.lean ====
section
/-! DEFINITION. How a command finds its operands: the block's index computations, its only addressing
modes (spec/20_memory.md R72), and the values a command takes from its stores. -/

namespace Sys2Proof.Machine

/-- The payload element of the interior cell in interior row `r`, interior column `c`, of an interior
`m` cells wide (R65, R72 (b)). -/
def payloadIndex (m r c : Nat) : Nat := r * m + c

/-- The raster element of the pixel `(x, y)` of a raster `w` pixels wide (R66, R72 (c)). -/
def rasterIndex (w x y : Nat) : Nat := y * w + x

/-- The pixel `(x, y)` of the raster `w` pixels wide that RMEM carries. -/
def State.pixel (s : State) (w x y : Nat) : Byte := s.readRmem (rasterIndex w x y)

/-- Is the code one of the two characters of the alphabet (spec/00_scope.md R14)? -/
def isBitChar (c : Config) (b : Byte) : Bool := b = c.c0 || b = c.c1

/-- `ones` of the first `n` characters of PBUF: how many are '1' (spec/43_integrity.md R170). -/
def State.ones (s : State) (n : Nat) : Nat :=
  (List.range n).countP fun i => s.readPbuf i = s.cfg.c1

/-- The parity character of the first `n` characters of PBUF (R170). -/
def State.parityChar (s : State) (n : Nat) : Byte :=
  if s.ones n % 2 = 1 then s.cfg.c1 else s.cfg.c0

end Sys2Proof.Machine
end

