-- ==== Sys2Proof/Machine/Geometry.lean ====
section
/-! DEFINITION. The grid geometry functions and the command GEOM (spec/40_geometry.md). -/

namespace Sys2Proof.Machine

/-- The side length `N` of a size class (spec/00_scope.md R2). -/
def SizeClass.side : SizeClass → Nat
  | .small => 5
  | .large => 7

/-- `validSize`, answering the class: exactly 5 and 7 are valid (R110). -/
def sizeClass? (s : Word) : Option SizeClass :=
  if s = 5 then some .small
  else if s = 7 then some .large
  else none

/-- `payloadCapacity(N) = (N-2)²` (R111). -/
def payloadCapacity (c : SizeClass) : Nat := (c.side - 2) * (c.side - 2)

/-- `borderTransitionCount(N) = N-1` (R112). -/
def borderTransitionCount (c : SizeClass) : Nat := c.side - 1

/-- `sizeOfTransitions`: 4 is Small, 6 is Large, every other count is no size (R113). -/
def sizeOfTransitions (t : Nat) : Option SizeClass :=
  if t = 4 then some .small
  else if t = 6 then some .large
  else none

/-- GEOMOUT after a GEOM, ENCODE or DECODE that used this size class (spec/10_state.md R36). -/
def geomOutOf (c : SizeClass) : GeomOut where
  n := BitVec.ofNat 8 c.side
  cap := BitVec.ofNat 8 (payloadCapacity c)
  trans := BitVec.ofNat 8 (borderTransitionCount c)

/-- GEOM (R114): the geometry of the size in SIZE. -/
def execGeom (s : State) : Host.Outcome State Fault Refusal :=
  match sizeClass? s.size with
  | none => .next (s.raise .invalidSizeClass)
  | some c => .next { s with geomout := geomOutOf c }.complete

end Sys2Proof.Machine
end

