-- ==== Sys2Proof/Machine/Decoder.lean ====
section
/-! DEFINITION. The decoder and the command DECODE (spec/42_decoder.md). -/

namespace Sys2Proof.Machine

/-- Step 1, binarize: black iff the pixel is below the cutoff (R142). -/
def binarize (cfg : Config) (p : Byte) : Cell := if p.toNat < cfg.t then .black else .white

/-- `bin(x, y)` of the raster in RMEM, `w` pixels wide (R142). -/
def State.bin (s : State) (w x y : Nat) : Cell := binarize s.cfg (s.pixel w x y)

/-- Step 2, the border-transition counter: the colour changes along raster row 0 (R143). -/
def State.transitions (s : State) (w : Nat) : Nat :=
  (List.range (w - 1)).countP fun x => s.bin w x 0 ≠ s.bin w (x + 1) 0

/-- Step 3, the sample coordinate of cell `x` of `n` along an edge of `w` pixels: the pixel at the
centre of the cell (R146). -/
def sampleCoord (n w x : Nat) : Nat := ((2 * x + 1) * w) / (2 * n)

/-- Step 3, resample: the cell in column `x`, row `y` (R147), white outside `N×N` (R150). -/
def State.sampledCell (s : State) (c : SizeClass) (w h x y : Nat) : Cell :=
  if x < c.side ∧ y < c.side then s.bin w (sampleCoord c.side w x) (sampleCoord c.side h y)
  else .white

/-- Step 4, the bit extractor's character of a cell: black is '1', white is '0' (R148). -/
def charOfCell (cfg : Config) : Cell → Byte
  | .black => cfg.c1
  | .white => cfg.c0

/-- Step 4: character `i` of the output comes from the interior cell `(1 + i mod M, 1 + i div M)` (R148). -/
def extractedChar (cfg : Config) (c : SizeClass) (cells : Nat → Nat → Cell) (i : Nat) : Byte :=
  charOfCell cfg (cells (1 + i % (c.side - 2)) (1 + i / (c.side - 2)))

/-- The presence check and the size inference (R141, R144): the first that fails, or the size class.
The product is taken in the natural numbers (spec/00_scope.md R10). -/
def decodeCheck (s : State) : Except ErrorKind SizeClass :=
  if s.width.toNat = 0 ∨ s.height.toNat = 0 ∨ s.width.toNat * s.height.toNat > s.cfg.rmax then
    .error .imageLoadFailure
  else match sizeOfTransitions (s.transitions s.width.toNat) with
    | none => .error .unrecognizedSize
    | some c => .ok c

/-- The commit of a successful DECODE (R150), before `complete`. -/
def decodeCommit (s : State) (c : SizeClass) : State :=
  let cells := s.sampledCell c s.width.toNat s.height.toNat
  { s with
    grid := Grid.ofFn cells
    pbuf := Memory.writePrefix s.pbuf (payloadCapacity c) (extractedChar s.cfg c cells)
    len := BitVec.ofNat 32 (payloadCapacity c)
    geomout := geomOutOf c }

/-- DECODE (R151): the raster in RMEM to the grid in GRID and the string in PBUF. -/
def execDecode (s : State) : Host.Outcome State Fault Refusal :=
  match decodeCheck s with
  | .error e => .next (s.raise e)
  | .ok c => .next (decodeCommit s c).complete

end Sys2Proof.Machine
end

