-- ==== Sys2Proof/Machine/Encoder.lean ====
section
/-! DEFINITION. The encoder and the command ENCODE (spec/41_encoder.md). -/

namespace Sys2Proof.Machine

/-- The border's colour at distance `i` from the origin: black where it is even (R123, R124). -/
def borderCell (i : Nat) : Cell := if i % 2 = 0 then .black else .white

/-- The cell of a payload character: '1' is black, '0' is white (R126). -/
def payloadCell (cfg : Config) (ch : Byte) : Cell := if ch = cfg.c1 then .black else .white

/-- The cell in column `x`, row `y` of the grid ENCODE builds from the string `str`: top row and left
column border, interior payload in row-major order, all else white (R122 to R126), the cells outside
`N×N` too (R128). -/
def encodedCell (cfg : Config) (c : SizeClass) (str : Nat → Byte) (x y : Nat) : Cell :=
  if x < c.side ∧ y < c.side then
    if y = 0 then borderCell x
    else if x = 0 then borderCell y
    else if x < c.side - 1 ∧ y < c.side - 1 then
      payloadCell cfg (str (payloadIndex (c.side - 2) (y - 1) (x - 1)))
    else .white
  else .white

/-- The pixel the encoder writes for a cell: exactly BLACK or exactly WHITE (R127). -/
def pixelOf (cfg : Config) : Cell → Byte
  | .black => cfg.black
  | .white => cfg.white

/-- The side `S = N*K` of the raster (R127). -/
def rasterSide (cfg : Config) (c : SizeClass) : Nat := c.side * cfg.k

/-- Entry `a` of the raster: pixel `(X, Y)` takes the cell `(X div K, Y div K)` (R127). -/
def rasterPixel (cfg : Config) (c : SizeClass) (cells : Nat → Nat → Cell) (a : Nat) : Byte :=
  pixelOf cfg (cells (a % rasterSide cfg c / cfg.k) (a / rasterSide cfg c / cfg.k))

/-- The checks of ENCODE in their order (R121): the first that fails, or the size class. -/
def encodeCheck (s : State) : Except ErrorKind SizeClass :=
  if s.len.toNat > s.cfg.pmax then .error .bufferOverflow
  else match sizeClass? s.size with
    | none => .error .invalidSizeClass
    | some c =>
      if (List.range s.len.toNat).any fun i => !isBitChar s.cfg (s.readPbuf i) then
        .error .invalidCharset
      else if s.len.toNat ≠ payloadCapacity c then .error .lengthMismatch
      else .ok c

/-- The commit of a successful ENCODE (R128), before `complete`. -/
def encodeCommit (s : State) (c : SizeClass) : State :=
  let cells := encodedCell s.cfg c s.readPbuf
  let side := rasterSide s.cfg c
  { s with
    grid := Grid.ofFn cells
    rmem := Memory.writePrefix s.rmem (side * side) (rasterPixel s.cfg c cells)
    width := BitVec.ofNat 32 side
    height := BitVec.ofNat 32 side
    geomout := geomOutOf c }

/-- ENCODE (R129): the string in PBUF to the grid in GRID and the raster in RMEM. -/
def execEncode (s : State) : Host.Outcome State Fault Refusal :=
  match encodeCheck s with
  | .error e => .next (s.raise e)
  | .ok c => .next (encodeCommit s c).complete

end Sys2Proof.Machine
end

