-- ==== Sys2Proof/Machine/Integrity.lean ====
section
/-! DEFINITION. The integrity helper: the commands PARAPP and PARCHK (spec/43_integrity.md). -/

namespace Sys2Proof.Machine

/-- PARAPP (R172): append the even-parity character to the string in PBUF. -/
def execParapp (s : State) : Host.Outcome State Fault Refusal :=
  if s.len.toNat ≥ s.cfg.pmax then .next (s.raise .bufferOverflow)
  else
    let appended := s.writePbuf s.len.toNat (s.parityChar s.len.toNat)
    .next { appended with len := BitVec.ofNat 32 (s.len.toNat + 1) }.complete

/-- `checkParity` of the first `n` characters of PBUF: the last one against the parity of the others,
and false for the empty string (R174). -/
def State.parityHolds (s : State) (n : Nat) : Bool :=
  if n = 0 then false else s.readPbuf (n - 1) = s.parityChar (n - 1)

/-- PARCHK (R174): the result of the check goes to PAROK. -/
def execParchk (s : State) : Host.Outcome State Fault Refusal :=
  if s.len.toNat > s.cfg.pmax then .next (s.raise .bufferOverflow)
  else .next { s with status := s.status.setParok (s.parityHolds s.len.toNat) }.complete

end Sys2Proof.Machine
end

