-- ==== Sys2Proof/Machine/Dispatch.lean ====
section
/-! DEFINITION. The engine's dispatch: one command to its meaning (spec/30_encoding.md R93). -/

namespace Sys2Proof.Machine

def exec (i : Instr) (s : State) : Host.Outcome State Fault Refusal :=
  match i with
  | .geom => Sys2Proof.Machine.execGeom s
  | .encode => Sys2Proof.Machine.execEncode s
  | .decode => Sys2Proof.Machine.execDecode s
  | .parapp => Sys2Proof.Machine.execParapp s
  | .parchk => Sys2Proof.Machine.execParchk s

end Sys2Proof.Machine
end

