-- ==== Sys2Proof/Machine/HostPort.lean ====
section
/-! DEFINITION. The host port: what one access does to the block and what it returns
(spec/20_memory.md R60 to R64). -/

namespace Sys2Proof.Machine

/-- A read that is served. -/
def Reply.data (d : RData) : Reply where
  resp := .ok
  rdata := some d

/-- A write that is served: no data. -/
def Reply.written : Reply where
  resp := .ok
  rdata := none

/-- An access that is refused: no data (R60). -/
def Reply.err : Reply where
  resp := .err
  rdata := none

/-- An access while no command is executing: served inside the space (R61, R62), `resp = ERR` and no
change outside it (R63). -/
def idleAccess (a : Access) (s : State) : State × Reply :=
  match a with
  | .readReg i =>
    match regOfIndex i with
    | some r => (s, .data (.word (s.readReg r)))
    | none => (s, .err)
  | .writeReg i v =>
    match regOfIndex i with
    | some r => (s.writeReg r v, .written)
    | none => (s, .err)
  | .readPbuf i => if i < s.cfg.pmax then (s, .data (.byte (s.readPbuf i))) else (s, .err)
  | .writePbuf i c => if i < s.cfg.pmax then (s.writePbuf i c, .written) else (s, .err)
  | .readRmem a => if a < s.cfg.rmax then (s, .data (.byte (s.readRmem a))) else (s, .err)
  | .writeRmem a p => if a < s.cfg.rmax then (s.writeRmem a p, .written) else (s, .err)

/-- An access while a command is executing: only a read of STATUS is served; every other access is
rejected and sets OVR (R64). -/
def busyAccess (a : Access) (s : State) : State × Reply :=
  if a = .readReg 1 then (s, .data (.word s.status.toWord))
  else ({ s with status := s.status.setOvr }, .err)

/-- One access of the host. -/
def portAccess (a : Access) (s : State) : State × Reply :=
  if s.status.busy then busyAccess a s else idleAccess a s

/-- The answer to an access is kept where the host's next move can see it (log 10). -/
def State.withReply (s : State) (r : Reply) : State :=
  { s with env := { s.env with reply := some r } }

/-- What the host still has to do. -/
def State.withScript (s : State) (ops : List HostOp) : State :=
  { s with env := { s.env with script := ops } }

/-- The host makes an access and keeps the answer. -/
def hostAccess (a : Access) (s : State) : State :=
  let (t, r) := portAccess a s
  t.withReply r

/-- Did a read of STATUS show DONE set, which ends a WAIT (spec/30_encoding.md R100)? -/
def Reply.showsDone (r : Reply) : Bool :=
  match r.rdata with
  | some (.word w) => w.getLsbD 1
  | _ => false

/-- The host's next operation (spec/30_encoding.md R99, R100). An access is made once; WAIT reads STATUS
and stays the next operation until the value read has DONE set (log 9). With nothing left to do the
host makes no access. -/
def hostTurn (s : State) : State :=
  match s.env.script with
  | [] => s
  | .access a :: rest => hostAccess a (s.withScript rest)
  | .wait :: rest =>
    let (t, r) := portAccess (.readReg 1) s
    (if r.showsDone then t.withScript rest else t).withReply r

end Sys2Proof.Machine
end

