-- ==== Sys2Proof/Machine/Engine.lean ====
section
/-! DEFINITION. The engine's step, and the three kinds of event put in order
(spec/30_encoding.md R93, spec/20_memory.md R73). -/

namespace Sys2Proof.Machine

/-- The engine runs the command in REG.CMD, or raises IllegalCommand (R93, R96). -/
def engineStep (s : State) : Host.Outcome State Fault Refusal :=
  match decode s.cmd with
  | .ok i => exec i s
  | .error .illegalCommand => .next (s.raise .illegalCommand)

/-- Which event comes next: the one the turns say, and when they say nothing, the engine's step while a
command is executing (spec/70_reset_and_hazards.md R226), else the host's next operation (log 4). -/
def nextTurn (s : State) : Turn :=
  match s.env.turns with
  | t :: _ => t
  | [] => if s.status.busy then .engine else .host

/-- The event named first has had its turn. -/
def State.popTurn (s : State) : State :=
  { s with env := { s.env with turns := s.env.turns.tail } }

/-- One event. A turn given to an engine that is not enabled is no event: nothing happens (log 5). -/
def runTurn (t : Turn) (s : State) : Host.Outcome State Fault Refusal :=
  match t with
  | .engine => if s.status.busy then engineStep s else .next s
  | .host => .next (hostTurn s)
  | .reset => .next s.resetBlock

/-- The next event is the engine's step: a listed order of turns gets it put in front, and with none
listed it comes next anyway. -/
def State.withEngineNext (s : State) : State :=
  match s.env.turns with
  | [] => s
  | ts => { s with env := { s.env with turns := .engine :: ts } }

/-- The block right after a CMD write of `v` that was served, the engine's step next. -/
def State.withCommand (s : State) (v : Word) : State := (s.startCommand v).withEngineNext

end Sys2Proof.Machine
end

