-- ==== Sys2Proof/Machine/Step.lean ====
section
/-! DEFINITION. One step of the machine: one event of the block's total order (spec/20_memory.md R73). -/

namespace Sys2Proof.Machine

/-- The next event, taken whole (R73). -/
def step (s : State) : Host.Outcome State Fault Refusal :=
  runTurn (nextTurn s) s.popTurn

/-- The block fetches nothing (spec/20_memory.md R77): a command comes to run by the CMD write of its
word, so the word is placed by that write (spec/30_encoding.md R92; log 7). -/
def State.withFetchWord (s : State) (nbits w : Nat) : State :=
  s.withCommand (BitVec.ofNat 32 (w % 2 ^ nbits))

end Sys2Proof.Machine
end

