-- ==== Sys2Proof/Machine/Script.lean ====
section
/-! DEFINITION. Host scripts: what the statements and pseudo-statements stand for
(spec/30_encoding.md R99, R100). -/

namespace Sys2Proof.Machine

/-- The code of a character of LOADSTR: '0' is `C0`, '1' is `C1`, any other is its own 8-bit code (R100;
log 11). -/
def charCode (cfg : Config) (c : Char) : Byte :=
  if c = '0' then cfg.c0
  else if c = '1' then cfg.c1
  else BitVec.ofNat 8 c.toNat

/-- `WR reg, v`. -/
def writeOp (r : Reg) (v : Word) : HostOp := .access (.writeReg (regIndex r) v)

/-- The writes of a list of bytes to consecutive entries from `start` on. -/
def loadBytes (write : Nat → Byte → Access) : (start : Nat) → List Byte → List HostOp
  | _, [] => []
  | start, b :: bs => .access (write start b) :: loadBytes write (start + 1) bs

/-- `WR CMD, v` and `WAIT`. -/
def runCommand (v : Word) : List HostOp := [writeOp .cmd v, .wait]

/-- What one statement stands for (R99, R100). -/
def expandStmt (cfg : Config) : Stmt → List HostOp
  | .wr r v => [writeOp r v]
  | .rd r => [.access (.readReg (regIndex r))]
  | .wp i c => [.access (.writePbuf i c)]
  | .rp i => [.access (.readPbuf i)]
  | .wx a p => [.access (.writeRmem a p)]
  | .rx a => [.access (.readRmem a)]
  | .geom => runCommand 1
  | .encode => runCommand 2
  | .decode => runCommand 3
  | .parapp => runCommand 4
  | .parchk => runCommand 5
  | .wait => [.wait]
  | .loadstr s =>
    loadBytes .writePbuf 0 (s.map (charCode cfg)) ++ [writeOp .len (BitVec.ofNat 32 s.length)]
  | .loadimg w h pixels => loadBytes .writeRmem 0 pixels ++ [writeOp .width w, writeOp .height h]

/-- A script is its statements, one after the other. -/
def expandScript (cfg : Config) (p : List Stmt) : List HostOp := p.flatMap (expandStmt cfg)

end Sys2Proof.Machine
end

