-- ==== Sys2Proof/Safety.lean ====
section
/-! DEFINITION. The terms claims are stated in: the invariant of a block, and which errors a command may
end with. -/

namespace Sys2Proof.Machine

/-- May a command word end with this error (spec/60_exceptions.md R201)? -/
def mayRaise (w : Word) (e : ErrorKind) : Bool :=
  match decode w with
  | .ok .geom => e = .invalidSizeClass
  | .ok .encode =>
    e = .bufferOverflow || e = .invalidSizeClass || e = .invalidCharset || e = .lengthMismatch
  | .ok .decode => e = .imageLoadFailure || e = .unrecognizedSize
  | .ok .parapp => e = .bufferOverflow
  | .ok .parchk => e = .bufferOverflow
  | .error .illegalCommand => e = .illegalCommand

/-- What holds of a block in every state a run from reset can reach. -/
structure State.Inv (s : State) : Prop where
  /-- The parameters are legal (spec/00_scope.md R7). -/
  cfg_legal : s.cfg.Legal
  /-- While a command executes, nothing is reported of it (spec/10_state.md R28 to R32). -/
  busy_clean : s.status.busy = true →
    s.status.done = false ∧ s.status.err = false ∧ s.status.ecode = none
  /-- ERR = 1 exactly when ECODE is not 0 (R30). -/
  err_iff_ecode : s.status.err = s.status.ecode.isSome
  /-- An error is reported of a completed command, and is one that its word may end with (R201). -/
  ecode_of_cmd : ∀ e, s.status.ecode = some e → s.status.done = true ∧ mayRaise s.cmd e = true
  /-- A completed illegal word ended with IllegalCommand (spec/30_encoding.md R96). -/
  illegal_raises : s.status.done = true → decode s.cmd = .error .illegalCommand →
    s.status.ecode = some .illegalCommand
  /-- DONE = 0 with BUSY = 0 means that there was no command since reset (R29). -/
  no_command_yet : s.status.busy = false → s.status.done = false →
    s.cmd = 0 ∧ s.status = Status.zero ∧ s.geomout = GeomOut.zero ∧ s.grid = Grid.blank
  /-- GEOMOUT only ever holds three values (R36). -/
  geomout_values : s.geomout = GeomOut.zero ∨ s.geomout = geomOutOf .small ∨
    s.geomout = geomOutOf .large
  /-- PBUF is in its canonical form and inside its space (R39). -/
  pbuf_wf : Memory.wf s.pbuf
  pbuf_below : Memory.below s.cfg.pmax s.pbuf
  /-- RMEM is in its canonical form and inside its space (R40). -/
  rmem_wf : Memory.wf s.rmem
  rmem_below : Memory.below s.cfg.rmax s.rmem

end Sys2Proof.Machine
end

