-- ==== Sys2Proof/Certificates/Slice0/Obligations.lean ====
section
/-! DEFINITION. The statements for the provers, and the few terms they are written in. -/

namespace Sys2Proof.Spec

open Sys2Proof.Machine

/-- The state `raise e` leaves (spec/60_exceptions.md R190): four fields of STATUS and nothing else. -/
def raised (s : State) (e : ErrorKind) : State :=
  { s with status := { s.status with busy := false, done := true, err := true, ecode := some e } }

/-- STATUS as `complete` leaves it (R189). -/
def completed (st : Status) : Status := { st with busy := false, done := true }

/-- Is the pixel in entry `a` of RMEM of the class black (spec/42_decoder.md R142)? -/
abbrev isBlack (s : State) (a : Nat) : Prop := (s.readRmem a).toNat < s.cfg.t

/-- The transition count of raster row 0 of a raster `w` pixels wide (R143). -/
def rowTransitions (s : State) (w : Nat) : Nat :=
  ((Finset.range (w - 1)).filter fun x => ¬(isBlack s x ↔ isBlack s (x + 1))).card

/-- The number of '1' among the first `n` characters of PBUF (spec/43_integrity.md R170). -/
def onesOf (s : State) (n : Nat) : Nat :=
  ((Finset.range n).filter fun i => s.readPbuf i = s.cfg.c1).card

/-- The string in PBUF is one ENCODE accepts for side length `n` (spec/41_encoder.md R121). -/
structure Encodable (s : State) (n : Nat) : Prop where
  side : n = 5 ∨ n = 7
  size : s.size.toNat = n
  len : s.len.toNat = (n - 2) * (n - 2)
  fits : s.len.toNat ≤ s.cfg.pmax
  chars : ∀ i, i < s.len.toNat → s.readPbuf i = s.cfg.c0 ∨ s.readPbuf i = s.cfg.c1

/-- The raster in RMEM is one DECODE accepts, and shows side length `n` (spec/42_decoder.md R141, R144). -/
structure Decodable (s : State) (n : Nat) : Prop where
  side : n = 5 ∨ n = 7
  width_pos : s.width.toNat ≠ 0
  height_pos : s.height.toNat ≠ 0
  fits : s.width.toNat * s.height.toNat ≤ s.cfg.rmax
  count : rowTransitions s s.width.toNat = n - 1

/-- GEOMOUT for side length `n` (spec/10_state.md R36). -/
def geometryOf (n : Nat) : GeomOut :=
  ⟨BitVec.ofNat 8 n, BitVec.ofNat 8 ((n - 2) * (n - 2)), BitVec.ofNat 8 (n - 1)⟩

/-- A state that carries, in RMEM, WIDTH and HEIGHT, the raster that `t` carries
(spec/60_exceptions.md R211). -/
structure CarriesRasterOf (u t : State) : Prop where
  cfg : u.cfg = t.cfg
  width : u.width = t.width
  height : u.height = t.height
  pixels : ∀ a, a < t.width.toNat * t.height.toNat → u.readRmem a = t.readRmem a

/-- A host makes several accesses, one after the other. -/
def afterAccesses (s : State) (as : List Access) : State :=
  as.foldl (fun u a => (portAccess a u).1) s

/-- A host does the accesses a statement stands for; a WAIT among them does nothing to the block. -/
def afterOps (s : State) (ops : List HostOp) : State :=
  ops.foldl (fun u op => match op with | .access a => (portAccess a u).1 | .wait => u) s

end Sys2Proof.Spec

open Sys2Proof Sys2Proof.Machine Sys2Proof.Spec

/-! ## Command words -/

/-- spec/30_encoding.md R91: the whole word is compared; five words are commands, all others illegal. -/
def Obligations.CommandWordsDecode : Prop :=
  decode 0x00000001 = .ok .geom ∧ decode 0x00000002 = .ok .encode ∧
  decode 0x00000003 = .ok .decode ∧ decode 0x00000004 = .ok .parapp ∧
  decode 0x00000005 = .ok .parchk ∧
  ∀ w : Word, w.toNat = 0 ∨ 5 < w.toNat → decode w = .error .illegalCommand

/-- R90, R91: decoding and encoding are inverse to each other, on all commands and on all words. -/
def Obligations.DecodeAndEncodeAgree : Prop :=
  (∀ i : Instr, i.wf = true → decode (encode i) = .ok i) ∧
  ∀ (w : Word) (i : Instr), decode w = .ok i → encode i = w

/-- R93: when the engine's step is the next event and a command is executing, the step runs the
command that REG.CMD holds; and a block that just took the CMD write of a command's word (log 7) runs
that command next, from the state that write left. -/
def Obligations.StepRunsDecodedCommand : Prop :=
  (∀ (s : State) (i : Instr), s.status.busy = true → nextTurn s = .engine →
    decode s.cmd = .ok i → step s = exec i s.popTurn) ∧
  ∀ (s : State) (w : Nat) (i : Instr), decodeTableWord 32 w = some i →
    step (s.withFetchWord 32 w) = exec i (s.startCommand (encode i))

/-- R96, R198: a word that is no command is accepted by the CMD write like any other, and the engine's
step of it raises IllegalCommand, code 6, and changes nothing else. -/
def Obligations.IllegalWordRaisesIllegalCommand : Prop :=
  ErrorKind.illegalCommand.code = 6 ∧
  ∀ (s : State) (v : Word), s.status.busy = false → v.toNat = 0 ∨ 5 < v.toNat →
    ∃ u, portAccess (.writeReg 0 v) s = (u, ⟨.ok, none⟩) ∧ u.cmd = v ∧ u.status.busy = true ∧
      engineStep u = .next (raised { s with cmd := v } .illegalCommand)

/-! ## The host port -/

/-- spec/10_state.md R21, spec/20_memory.md R61: what a read of each of the 16 registers returns while
the block is idle; it changes no state. -/
def Obligations.IdleRegisterReadsServed : Prop :=
  ∀ s : State, s.status.busy = false →
    portAccess (.readReg 0) s = (s, ⟨.ok, some (.word s.cmd)⟩) ∧
    portAccess (.readReg 1) s = (s, ⟨.ok, some (.word s.status.toWord)⟩) ∧
    portAccess (.readReg 2) s = (s, ⟨.ok, some (.word s.size)⟩) ∧
    portAccess (.readReg 3) s = (s, ⟨.ok, some (.word s.len)⟩) ∧
    portAccess (.readReg 4) s = (s, ⟨.ok, some (.word s.width)⟩) ∧
    portAccess (.readReg 5) s = (s, ⟨.ok, some (.word s.height)⟩) ∧
    portAccess (.readReg 6) s = (s, ⟨.ok, some (.word s.geomout.toWord)⟩) ∧
    portAccess (.readReg 7) s = (s, ⟨.ok, some (.word (param0 s.cfg))⟩) ∧
    portAccess (.readReg 8) s = (s, ⟨.ok, some (.word (param1 s.cfg))⟩) ∧
    ∀ y : Fin 7, portAccess (.readReg (9 + y)) s = (s, ⟨.ok, some (.word (rowWord s.grid[y]))⟩)

/-- R61: a write of SIZE, LEN, WIDTH or HEIGHT stores all 32 bits and changes nothing else. -/
def Obligations.OperandRegisterWritesStore : Prop :=
  ∀ (s : State) (v : Word), s.status.busy = false →
    portAccess (.writeReg 2 v) s = ({ s with size := v }, ⟨.ok, none⟩) ∧
    portAccess (.writeReg 3 v) s = ({ s with len := v }, ⟨.ok, none⟩) ∧
    portAccess (.writeReg 4 v) s = ({ s with width := v }, ⟨.ok, none⟩) ∧
    portAccess (.writeReg 5 v) s = ({ s with height := v }, ⟨.ok, none⟩)

/-- R61, R69: PBUF and RMEM behave as plain memory. A served write returns no data, stores its byte and
changes nothing else; a served read of any element then returns the value written to it last and
changes no state. -/
def Obligations.StoresBehaveAsPlainMemory : Prop :=
  ∀ (s : State) (i : Nat) (b : Byte), s.status.busy = false →
    (i < s.cfg.pmax → ∃ t, portAccess (.writePbuf i b) s = (t, ⟨.ok, none⟩) ∧
      t = { s with pbuf := t.pbuf } ∧
      ∀ j, j < s.cfg.pmax → portAccess (.readPbuf j) t =
        (t, ⟨.ok, some (.byte (if j = i then b else s.readPbuf j))⟩)) ∧
    (i < s.cfg.rmax → ∃ t, portAccess (.writeRmem i b) s = (t, ⟨.ok, none⟩) ∧
      t = { s with rmem := t.rmem } ∧
      ∀ j, j < s.cfg.rmax → portAccess (.readRmem j) t =
        (t, ⟨.ok, some (.byte (if j = i then b else s.readRmem j))⟩))

/-- R62: a served write to a read-only register answers OK and changes no state at all. -/
def Obligations.ReadOnlyWritesIgnored : Prop :=
  ∀ (s : State) (i : Nat) (v : Word), s.status.busy = false →
    i = 1 ∨ (6 ≤ i ∧ i ≤ 15) → portAccess (.writeReg i v) s = (s, ⟨.ok, none⟩)

/-- R63: an index outside its space answers ERR without data and changes no state, whatever the
access. -/
def Obligations.UnmappedIndexAnswersErr : Prop :=
  ∀ (s : State) (i : Nat) (v : Word) (b : Byte), s.status.busy = false →
    (16 ≤ i → portAccess (.readReg i) s = (s, ⟨.err, none⟩) ∧
      portAccess (.writeReg i v) s = (s, ⟨.err, none⟩)) ∧
    (s.cfg.pmax ≤ i → portAccess (.readPbuf i) s = (s, ⟨.err, none⟩) ∧
      portAccess (.writePbuf i b) s = (s, ⟨.err, none⟩)) ∧
    (s.cfg.rmax ≤ i → portAccess (.readRmem i) s = (s, ⟨.err, none⟩) ∧
      portAccess (.writeRmem i b) s = (s, ⟨.err, none⟩))

/-- R64: while a command executes only a read of STATUS is served; every other access, whatever its
index, is rejected, stores nothing and sets OVR. The STATUS that the read returns has BUSY set and, in a block
that meets its invariant, DONE, ERR and ECODE at 0. -/
def Obligations.BusyAccessRejected : Prop :=
  ∀ (s : State) (a : Access), s.status.busy = true →
    (s.Inv → s.status.done = false ∧ s.status.err = false ∧ s.status.ecode = none) ∧
    (a = .readReg 1 → portAccess a s = (s, ⟨.ok, some (.word s.status.toWord)⟩)) ∧
    (a ≠ .readReg 1 →
      portAccess a s = ({ s with status := { s.status with ovr := true } }, ⟨.err, none⟩))

/-- spec/30_encoding.md R92: a served CMD write of any word, legal or not. -/
def Obligations.CmdWriteStartsCommand : Prop :=
  ∀ (s : State) (v : Word), s.status.busy = false →
    portAccess (.writeReg 0 v) s =
      ({ s with cmd := v,
                status := { s.status with busy := true, done := false, err := false, ecode := none } },
       ⟨.ok, none⟩)

/-! ## Register words -/

/-- spec/10_state.md R27, R44; spec/60_exceptions.md R186: the fields of STATUS in the word a host reads. -/
def Obligations.StatusWordFields : Prop :=
  ∀ st : Status,
    st.toWord.getLsbD 0 = st.busy ∧ st.toWord.getLsbD 1 = st.done ∧ st.toWord.getLsbD 2 = st.err ∧
    st.toWord.getLsbD 3 = st.parok ∧ st.toWord.getLsbD 8 = st.ovr ∧
    (∀ j, 9 ≤ j → st.toWord.getLsbD j = false) ∧
    st.toWord.extractLsb' 4 4 = (match st.ecode with
      | none => 0
      | some .invalidCharset => 1
      | some .invalidSizeClass => 2
      | some .lengthMismatch => 3
      | some .unrecognizedSize => 4
      | some .imageLoadFailure => 5
      | some .illegalCommand => 6
      | some .bufferOverflow => 7)

/-- spec/10_state.md R33, R34: the fields of PARAM0 and PARAM1, for every legal configuration. -/
def Obligations.ParameterWordFields : Prop :=
  ∀ c : Config, c.Legal →
    ((param0 c).extractLsb' 0 16).toNat = c.k ∧ ((param0 c).extractLsb' 16 8).toNat = c.t ∧
    ((param0 c).extractLsb' 24 8).toNat = c.pmax ∧ (param1 c).toNat = c.rmax

/-- R36, R44: the fields of GEOMOUT. -/
def Obligations.GeomoutWordFields : Prop :=
  ∀ g : GeomOut,
    g.toWord.extractLsb' 0 8 = g.n ∧ g.toWord.extractLsb' 8 8 = g.cap ∧
    g.toWord.extractLsb' 16 8 = g.trans ∧ g.toWord.extractLsb' 24 8 = 0

/-- R37: bit `x` of GRIDy is the cell in column `x` of row `y`, 1 for white, and bits 31:7 read 0. -/
def Obligations.GridRowBits : Prop :=
  ∀ (s : State) (y : Fin 7) (x : Nat),
    (x < 7 → ((s.readReg (.grid y)).getLsbD x = true ↔ s.grid.cell x y = .white)) ∧
    (7 ≤ x → (s.readReg (.grid y)).getLsbD x = false)

/-! ## Reset -/

/-- spec/70_reset_and_hazards.md R215, R216, R217; spec/10_state.md R43: a reset event, whatever the
block was doing, leaves every register and the grid store at its reset value, keeps the parameters,
and leaves every entry of PBUF and RMEM at the free value of a new reset (log 2). -/
def Obligations.ResetEventLeavesResetValues : Prop :=
  ∀ s : State, nextTurn s = .reset → ∃ t, step s = .next t ∧
    t.cmd = 0x00000000 ∧ t.status.toWord = 0x00000000 ∧ t.status.busy = false ∧
    t.size = 0x00000005 ∧ t.len = 0x00000000 ∧ t.width = 0x00000000 ∧ t.height = 0x00000000 ∧
    t.geomout.toWord = 0x00000000 ∧ (∀ y : Fin 7, t.readReg (.grid y) = 0x0000007F) ∧
    t.cfg = s.cfg ∧
    (∀ i, t.readPbuf i = Config.unspecifiedPbuf (s.env.resets + 1) i) ∧
    ∀ a, t.readRmem a = Config.unspecifiedRmem (s.env.resets + 1) a

/-- R218: what each command gives straight after a reset, for every legal configuration, as the STATUS
word the host then reads and the results it names. -/
def Obligations.StraightAfterReset : Prop :=
  ∀ s : State, s.cfg.Legal →
    (∃ t, exec .geom (s.resetBlock.startCommand 1) = .next t ∧ t.status.toWord = 0x02 ∧
      t.geomout.toWord = 0x00040905) ∧
    (∃ t, exec .encode (s.resetBlock.startCommand 2) = .next t ∧ t.status.toWord = 0x36) ∧
    (∃ t, exec .decode (s.resetBlock.startCommand 3) = .next t ∧ t.status.toWord = 0x56) ∧
    (∃ t, exec .parapp (s.resetBlock.startCommand 4) = .next t ∧ t.status.toWord = 0x02 ∧
      t.readPbuf 0 = s.cfg.c0 ∧ t.len = 1) ∧
    (∃ t, exec .parchk (s.resetBlock.startCommand 5) = .next t ∧ t.status.toWord = 0x02)

/-! ## Completion and errors -/

/-- spec/60_exceptions.md R185, R190, R191, R201: every command ends in one of two ways. Either it
completes, and the error fields stay as the CMD write left them, or it raises one of the errors its
row of R201 allows, and then nothing but four fields of STATUS differs from before. -/
def Obligations.CommandsCompleteOrRaise : Prop :=
  ∀ (i : Instr) (s : State), ∃ t, exec i s = .next t ∧
    ((t.status.busy = false ∧ t.status.done = true ∧ t.status.err = s.status.err ∧
        t.status.ecode = s.status.ecode) ∨
      ∃ e, mayRaise (encode i) e = true ∧ t = raised s e)

/-- spec/70_reset_and_hazards.md R226: the machine never stops, and the engine's step ends its
command in that one step, whatever the word. -/
def Obligations.EveryStartedCommandCompletes : Prop :=
  (∀ s : State, ∃ t, step s = .next t) ∧
  ∀ s : State, s.status.busy = true → nextTurn s = .engine →
    ∃ t, step s = .next t ∧ t.status.busy = false ∧ t.status.done = true ∧ t.cmd = s.cmd

/-- spec/60_exceptions.md R191: errors are precise. Whatever word is started, and whatever the host does
before the engine's step, a command that raises leaves the state that was there before its CMD write,
but for CMD and the fields BUSY, DONE, ERR and ECODE of STATUS, and OVR, which is set if the host made a
rejected access meanwhile and is as before otherwise. -/
def Obligations.ErrorsArePrecise : Prop :=
  ∀ (s : State) (v : Word) (as : List Access), s.status.busy = false →
    ∃ t, engineStep (afterAccesses (s.startCommand v) as) = .next t ∧
      (t.status.err = true → t = { s with cmd := v, status := { s.status with
        busy := false, done := true, err := true, ecode := t.status.ecode,
        ovr := s.status.ovr || as.any fun a => a ≠ .readReg 1 } })

/-- spec/60_exceptions.md R188: an error leaves no trace in the next command: the CMD write after it
gives the state that it would have given after a success. -/
def Obligations.ErrorsLeaveNoTrace : Prop :=
  ∀ (s : State) (e : ErrorKind) (v : Word),
    portAccess (.writeReg 0 v) (raised s e) =
      portAccess (.writeReg 0 v) { s with status := completed s.status }

/-! ## GEOM -/

/-- spec/40_geometry.md R110 to R113. -/
def Obligations.GeometryFunctions : Prop :=
  (∀ s : Word, (s.toNat = 5 ↔ sizeClass? s = some .small) ∧ (s.toNat = 7 ↔ sizeClass? s = some .large)) ∧
  SizeClass.small.side = 5 ∧ SizeClass.large.side = 7 ∧
  payloadCapacity .small = 9 ∧ payloadCapacity .large = 25 ∧
  borderTransitionCount .small = 4 ∧ borderTransitionCount .large = 6 ∧
  ∀ t, (t = 4 ↔ sizeOfTransitions t = some .small) ∧ (t = 6 ↔ sizeOfTransitions t = some .large)

/-- R114: GEOM, its word, every operand, and the whole next state. -/
def Obligations.GeomComputesGeometry : Prop :=
  decode 0x00000001 = .ok .geom ∧ (⟨5, 9, 4⟩ : GeomOut).toWord = 0x00040905 ∧
  (⟨7, 25, 6⟩ : GeomOut).toWord = 0x00061907 ∧
  ∀ s : State,
    (s.size.toNat = 5 → exec .geom s =
      .next { s with geomout := ⟨5, 9, 4⟩, status := completed s.status }) ∧
    (s.size.toNat = 7 → exec .geom s =
      .next { s with geomout := ⟨7, 25, 6⟩, status := completed s.status }) ∧
    (s.size.toNat ≠ 5 ∧ s.size.toNat ≠ 7 → exec .geom s = .next (raised s .invalidSizeClass))

/-! ## ENCODE -/

/-- spec/41_encoder.md R121, spec/60_exceptions.md R200: the checks of ENCODE in their order, and that
the first failing one is the error raised, with nothing written but STATUS. -/
def Obligations.EncodeChecksInOrder : Prop :=
  ∀ s : State,
    let tooLong := s.len.toNat > s.cfg.pmax
    let badSize := s.size.toNat ≠ 5 ∧ s.size.toNat ≠ 7
    let badChar := ∃ i, i < s.len.toNat ∧ s.readPbuf i ≠ s.cfg.c0 ∧ s.readPbuf i ≠ s.cfg.c1
    let badLen := s.len.toNat ≠ (s.size.toNat - 2) * (s.size.toNat - 2)
    (tooLong → exec .encode s = .next (raised s .bufferOverflow)) ∧
    (¬tooLong ∧ badSize → exec .encode s = .next (raised s .invalidSizeClass)) ∧
    (¬tooLong ∧ ¬badSize ∧ badChar → exec .encode s = .next (raised s .invalidCharset)) ∧
    (¬tooLong ∧ ¬badSize ∧ ¬badChar ∧ badLen → exec .encode s = .next (raised s .lengthMismatch))

/-- R123 to R128: on its operands ENCODE completes, and leaves the tag's grid (top row, left column,
interior, all else white), its raster, WIDTH, HEIGHT and GEOMOUT; every RMEM entry beyond the raster
and every other piece of state is unchanged. -/
def Obligations.EncodePaintsTag : Prop :=
  ∀ (s : State) (n : Nat), s.cfg.Legal → Encodable s n →
    ∃ t, exec .encode s = .next t ∧
      (∀ x, x < n → t.grid.cell x 0 = if x % 2 = 0 then .black else .white) ∧
      (∀ y, 0 < y → y < n → t.grid.cell 0 y = if y % 2 = 0 then .black else .white) ∧
      (∀ r c, r < n - 2 → c < n - 2 → t.grid.cell (1 + c) (1 + r) =
        if s.readPbuf (r * (n - 2) + c) = s.cfg.c1 then .black else .white) ∧
      (∀ x y, x < 7 → y < 7 → (n - 1 ≤ x ∧ 1 ≤ y) ∨ (n - 1 ≤ y ∧ 1 ≤ x) ∨ n ≤ x ∨ n ≤ y →
        t.grid.cell x y = .white) ∧
      (∀ x y, x < n * s.cfg.k → y < n * s.cfg.k → t.readRmem (y * (n * s.cfg.k) + x) =
        if t.grid.cell (x / s.cfg.k) (y / s.cfg.k) = .black then s.cfg.black else s.cfg.white) ∧
      (∀ a, n * s.cfg.k * (n * s.cfg.k) ≤ a → t.readRmem a = s.readRmem a) ∧
      t.width.toNat = n * s.cfg.k ∧ t.height.toNat = n * s.cfg.k ∧
      t = { s with grid := t.grid, rmem := t.rmem, width := t.width, height := t.height,
                   geomout := geometryOf n, status := completed s.status }

/-- R130: after every successful ENCODE, whatever the payload, row 0 of the raster changes class
exactly between the blocks of neighbouring cells, and so does every raster row `y < K`; so the
transition count is `N-1`; and row 0 of the grid changes at each of its `N-1` places. -/
def Obligations.EncodeBorderInvariant : Prop :=
  ∀ (s : State) (n : Nat), s.cfg.Legal → Encodable s n →
    ∃ t, exec .encode s = .next t ∧
      (∀ x y, x < n * s.cfg.k - 1 → y < s.cfg.k →
        (¬(isBlack t (rasterIndex (n * s.cfg.k) x y) ↔ isBlack t (rasterIndex (n * s.cfg.k) (x + 1) y)) ↔
          ∃ j, 1 ≤ j ∧ j ≤ n - 1 ∧ x = j * s.cfg.k - 1)) ∧
      rowTransitions t (n * s.cfg.k) = n - 1 ∧
      ∀ x, x < n - 1 → t.grid.cell x 0 ≠ t.grid.cell (x + 1) 0

/-! ## DECODE -/

/-- spec/42_decoder.md R141, R143, R144: the checks of DECODE in their order, each error raised with
nothing written but STATUS. The product is not wrapped. -/
def Obligations.DecodeChecksInOrder : Prop :=
  ∀ s : State,
    let absent := s.width.toNat = 0 ∨ s.height.toNat = 0 ∨ s.width.toNat * s.height.toNat > s.cfg.rmax
    (absent → exec .decode s = .next (raised s .imageLoadFailure)) ∧
    (¬absent ∧ rowTransitions s s.width.toNat ≠ 4 ∧ rowTransitions s s.width.toNat ≠ 6 →
      exec .decode s = .next (raised s .unrecognizedSize))

/-- R146 to R151: on its operands DECODE completes: each cell of GRID is the class of the pixel at the
centre of its footprint, the interior read row by row is the string in PBUF, and LEN and GEOMOUT tell
its size; every PBUF entry beyond the string and every other piece of state is unchanged. -/
def Obligations.DecodeReadsTag : Prop :=
  ∀ (s : State) (n : Nat), s.cfg.Legal → Decodable s n →
    ∃ t, exec .decode s = .next t ∧
      (∀ x y, x < n → y < n → (t.grid.cell x y = .black ↔
        isBlack s ((2 * y + 1) * s.height.toNat / (2 * n) * s.width.toNat +
          (2 * x + 1) * s.width.toNat / (2 * n)))) ∧
      (∀ x y, n ≤ x ∨ n ≤ y → t.grid.cell x y = .white) ∧
      (∀ r c, r < n - 2 → c < n - 2 → t.readPbuf (r * (n - 2) + c) =
        if t.grid.cell (1 + c) (1 + r) = .black then s.cfg.c1 else s.cfg.c0) ∧
      (∀ i, (n - 2) * (n - 2) ≤ i → t.readPbuf i = s.readPbuf i) ∧
      t.len.toNat = (n - 2) * (n - 2) ∧
      t = { s with grid := t.grid, pbuf := t.pbuf, len := t.len, geomout := geometryOf n,
                   status := completed s.status }

/-- R146: the sample coordinates stay inside the raster, never fall, and in a raster that an ENCODE
made lie `K div 2` pixels inside the block of their cell. -/
def Obligations.SampleCoordinates : Prop :=
  ∀ n, n = 5 ∨ n = 7 →
    (∀ w x, 1 ≤ w → x < n → sampleCoord n w x = (2 * x + 1) * w / (2 * n) ∧ sampleCoord n w x ≤ w - 1) ∧
    (∀ w x x', x ≤ x' → sampleCoord n w x ≤ sampleCoord n w x') ∧
    (∀ k x, 1 ≤ k → sampleCoord n (n * k) x = x * k + k / 2 ∧
      x * k ≤ sampleCoord n (n * k) x ∧ sampleCoord n (n * k) x < (x + 1) * k)

/-- R154: DECODE depends on the raster only through the classes of row 0 and of the `N×N` sampled
pixels: two blocks whose rasters agree there end alike in all that DECODE writes. -/
def Obligations.DecodeSeesOnlyClassesAtSamples : Prop :=
  ∀ (s s' : State) (n : Nat), Decodable s n → s'.cfg = s.cfg → s'.width = s.width →
    s'.height = s.height →
    (∀ x, x < s.width.toNat → (isBlack s' x ↔ isBlack s x)) →
    (∀ x y, x < n → y < n →
      (isBlack s' (rasterIndex s.width.toNat (sampleCoord n s.width.toNat x)
          (sampleCoord n s.height.toNat y)) ↔
        isBlack s (rasterIndex s.width.toNat (sampleCoord n s.width.toNat x)
          (sampleCoord n s.height.toNat y)))) →
    ∃ t t', exec .decode s = .next t ∧ exec .decode s' = .next t' ∧
      t'.grid = t.grid ∧ t'.len = t.len ∧ t'.geomout = t.geomout ∧
      ∀ i, i < t.len.toNat → t'.readPbuf i = t.readPbuf i

/-- R145, R154: one pixel of row 0 on the wrong side of the cutoff at either end of the row makes the
raster of any ENCODE unrecognizable. -/
def Obligations.StrayEndPixelIsUnrecognized : Prop :=
  ∀ (s t u : State) (n a : Nat), s.cfg.Legal → Encodable s n → exec .encode s = .next t →
    u.cfg = t.cfg → u.width = t.width → u.height = t.height →
    a = 0 ∨ a = n * s.cfg.k - 1 →
    (∀ x, x < n * s.cfg.k → x ≠ a → (isBlack u x ↔ isBlack t x)) → ¬(isBlack u a ↔ isBlack t a) →
    exec .decode u = .next (raised u .unrecognizedSize)

/-- R145: one pixel on the wrong side of the cutoff inside a run of row 0 adds two transitions: a Small
tag is then decoded as a Large one, without an error, and a Large tag is unrecognizable. -/
def Obligations.StrayInnerPixelChangesSize : Prop :=
  ∀ (s t u : State) (n a : Nat), s.cfg.Legal → Encodable s n → exec .encode s = .next t →
    u.cfg = t.cfg → u.width = t.width → u.height = t.height →
    0 < a → a < n * s.cfg.k - 1 →
    (isBlack t (a - 1) ↔ isBlack t a) → (isBlack t (a + 1) ↔ isBlack t a) →
    (∀ x, x < n * s.cfg.k → x ≠ a → (isBlack u x ↔ isBlack t x)) → ¬(isBlack u a ↔ isBlack t a) →
    rowTransitions u (n * s.cfg.k) = n + 1 ∧
    (n = 5 → ∃ v, exec .decode u = .next v ∧ v.status = completed u.status ∧
      v.geomout = geometryOf 7 ∧ v.len.toNat = 25) ∧
    (n = 7 → exec .decode u = .next (raised u .unrecognizedSize))

/-- R154: a wrong-side pixel at the sampled position of one interior cell flips that one payload bit
and no other, without an error. -/
def Obligations.WrongSampleFlipsOneBit : Prop :=
  ∀ (s t u : State) (n r c : Nat), s.cfg.Legal → Encodable s n → exec .encode s = .next t →
    u.cfg = t.cfg → u.width = t.width → u.height = t.height → r < n - 2 → c < n - 2 →
    (∀ a, a < n * s.cfg.k * (n * s.cfg.k) →
      ((isBlack u a ↔ isBlack t a) ↔
        a ≠ ((1 + r) * s.cfg.k + s.cfg.k / 2) * (n * s.cfg.k) + ((1 + c) * s.cfg.k + s.cfg.k / 2))) →
    ∃ v, exec .decode u = .next v ∧ v.status = completed u.status ∧
      v.len.toNat = (n - 2) * (n - 2) ∧
      ∀ i, i < (n - 2) * (n - 2) →
        (v.readPbuf i = s.cfg.c0 ∨ v.readPbuf i = s.cfg.c1) ∧
        (v.readPbuf i = s.readPbuf i ↔ i ≠ r * (n - 2) + c)

/-- R152: the round trip. In whatever block holds the raster an ENCODE left, in RMEM, WIDTH and HEIGHT,
DECODE completes and gives back the string, its length, the size class and the grid. -/
def Obligations.DecodeInvertsEncode : Prop :=
  ∀ (s t u : State) (n : Nat), s.cfg.Legal → Encodable s n → exec .encode s = .next t →
    CarriesRasterOf u t →
    ∃ v, exec .decode u = .next v ∧ v.status = completed u.status ∧
      v.len.toNat = (n - 2) * (n - 2) ∧ (∀ i, i < v.len.toNat → v.readPbuf i = s.readPbuf i) ∧
      v.geomout.n.toNat = n ∧ v.geomout = t.geomout ∧ v.grid = t.grid

/-- spec/70_reset_and_hazards.md R227: clean integer rescales of an encoder output decode exactly: every
pixel replicated `f×f` times, or every `f`-th pixel kept with `f` dividing `K`. -/
def Obligations.CleanRescaleDecodes : Prop :=
  ∀ (s t u : State) (n f w : Nat), s.cfg.Legal → Encodable s n → exec .encode s = .next t →
    1 ≤ f → u.cfg = t.cfg → u.width.toNat = w → u.height.toNat = w → w * w ≤ s.cfg.rmax →
    ((w = f * (n * s.cfg.k) ∧ ∀ x y, x < w → y < w →
        u.readRmem (y * w + x) = t.readRmem (y / f * (n * s.cfg.k) + x / f)) ∨
      (f * w = n * s.cfg.k ∧ f ∣ s.cfg.k ∧ ∀ x y, x < w → y < w →
        u.readRmem (y * w + x) = t.readRmem (f * y * (n * s.cfg.k) + f * x))) →
    ∃ v, exec .decode u = .next v ∧ v.status = completed u.status ∧
      v.len.toNat = (n - 2) * (n - 2) ∧ (∀ i, i < v.len.toNat → v.readPbuf i = s.readPbuf i) ∧
      v.geomout = t.geomout ∧ v.grid = t.grid

/-! ## PARAPP and PARCHK -/

/-- spec/43_integrity.md R172: PARAPP, its word and every operand: the error when the buffer is full,
else the appended character, the new LEN, and everything else unchanged; and run on its own result it
appends '0'. -/
def Obligations.ParappAppendsParity : Prop :=
  decode 0x00000004 = .ok .parapp ∧ ∀ s : State,
    (s.cfg.pmax ≤ s.len.toNat → exec .parapp s = .next (raised s .bufferOverflow)) ∧
    (s.len.toNat < s.cfg.pmax → s.cfg.Legal → ∃ t, exec .parapp s = .next t ∧
      t.readPbuf s.len.toNat =
        (if onesOf s s.len.toNat % 2 = 1 then s.cfg.c1 else s.cfg.c0) ∧
      t.len.toNat = s.len.toNat + 1 ∧
      (∀ i, i ≠ s.len.toNat → t.readPbuf i = s.readPbuf i) ∧
      t = { s with pbuf := t.pbuf, len := t.len, status := completed s.status } ∧
      (t.len.toNat < s.cfg.pmax → ∃ u, exec .parapp t = .next u ∧ u.readPbuf t.len.toNat = s.cfg.c0))

/-- R174: PARCHK, its word, every operand, and the whole next state. It is idempotent, and for a string
over the alphabet that is not empty PAROK says whether the whole of it holds an even number of '1'. -/
def Obligations.ParchkReportsParity : Prop :=
  decode 0x00000005 = .ok .parchk ∧ ∀ s : State,
    (s.cfg.pmax < s.len.toNat → exec .parchk s = .next (raised s .bufferOverflow)) ∧
    (s.len.toNat ≤ s.cfg.pmax → s.len.toNat = 0 →
      exec .parchk s = .next { s with status := { completed s.status with parok := false } }) ∧
    (s.len.toNat ≤ s.cfg.pmax → s.len.toNat ≠ 0 →
      exec .parchk s = .next { s with status := { completed s.status with
        parok := decide (s.readPbuf (s.len.toNat - 1) =
          if onesOf s (s.len.toNat - 1) % 2 = 1 then s.cfg.c1 else s.cfg.c0) } }) ∧
    (∀ t, exec .parchk s = .next t → exec .parchk t = .next t) ∧
    (s.cfg.Legal → s.len.toNat ≤ s.cfg.pmax → s.len.toNat ≠ 0 →
      (∀ i, i < s.len.toNat → s.readPbuf i = s.cfg.c0 ∨ s.readPbuf i = s.cfg.c1) →
      ∃ t, exec .parchk s = .next t ∧ (t.status.parok = true ↔ onesOf s s.len.toNat % 2 = 0))

/-- R175: of a string over the alphabet with its parity character appended, PARCHK detects exactly
those corruptions that flip an odd number of characters: none flipped is accepted, one is detected,
any even number is not. -/
def Obligations.ParityDetectsOddFlips : Prop :=
  ∀ s t u : State, s.cfg.Legal → s.len.toNat < s.cfg.pmax →
    (∀ i, i < s.len.toNat → s.readPbuf i = s.cfg.c0 ∨ s.readPbuf i = s.cfg.c1) →
    exec .parapp s = .next t → u.cfg = t.cfg → u.len = t.len →
    (∀ i, i < t.len.toNat → u.readPbuf i = s.cfg.c0 ∨ u.readPbuf i = s.cfg.c1) →
    ∃ v, exec .parchk u = .next v ∧
      (v.status.parok = true ↔
        ((Finset.range t.len.toNat).filter fun i => u.readPbuf i ≠ t.readPbuf i).card % 2 = 0)

/-! ## Rules over the whole machine -/

/-- spec/30_encoding.md R94: no command writes anything but the results its row of R94 names, and
STATUS. RMEM is changed by ENCODE alone, and there below `(N*K)²`; PBUF by PARAPP at index LEN and by
DECODE below `(N-2)²`. -/
def Obligations.CommandsWriteOnlyTheirResults : Prop :=
  ∀ (i : Instr) (s t : State), exec i s = .next t →
    t.cfg = s.cfg ∧ t.cmd = s.cmd ∧ t.size = s.size ∧ t.env = s.env ∧
    t.status.ovr = s.status.ovr ∧
    (i ≠ .parchk → t.status.parok = s.status.parok) ∧
    (i ≠ .decode → i ≠ .parapp → t.len = s.len) ∧
    (i ≠ .encode → t.width = s.width ∧ t.height = s.height) ∧
    (i = .parapp ∨ i = .parchk → t.geomout = s.geomout) ∧
    (i ≠ .encode → i ≠ .decode → t.grid = s.grid) ∧
    (∀ a, (∀ c, i = .encode → encodeCheck s = .ok c →
        rasterSide s.cfg c * rasterSide s.cfg c ≤ a) → t.readRmem a = s.readRmem a) ∧
    (∀ j, (i = .parapp → s.len.toNat < s.cfg.pmax → j ≠ s.len.toNat) →
      (∀ c, i = .decode → decodeCheck s = .ok c → payloadCapacity c ≤ j) →
      t.readPbuf j = s.readPbuf j)

/-- The invariant of the block holds in the reset state. -/
def Obligations.ResetMeetsInvariant : Prop := State.reset.Inv

/-- Every step, of whatever kind, keeps the invariant of the block: the parameters stay legal
(spec/00_scope.md R7), STATUS stays consistent (spec/10_state.md R28 to R32) and its error one that
the command may raise (spec/60_exceptions.md R201), GEOMOUT holds one of three values (R36), and PBUF
and RMEM keep their canonical form inside their spaces. -/
def Obligations.StepKeepsInvariant : Prop :=
  ∀ s t : State, s.Inv → step s = .next t → t.Inv

/-- spec/10_state.md R35: OVR is set exactly by a host access, other than a read of STATUS, while a
command is executing; nothing clears it but reset; and it does not change what a command computes. -/
def Obligations.OvrIsStickyAndSetByRejection : Prop :=
  (∀ s t : State, step s = .next t → nextTurn s ≠ .reset → s.status.ovr = true →
    t.status.ovr = true) ∧
  (∀ s t : State, step s = .next t → s.status.ovr = false →
    (t.status.ovr = true ↔ s.status.busy = true ∧ nextTurn s = .host ∧
      ∃ a rest, s.env.script = .access a :: rest ∧ a ≠ .readReg 1)) ∧
  ∀ (i : Instr) (s t : State) (o : Bool), exec i s = .next t →
    exec i { s with status := { s.status with ovr := o } } =
      .next { t with status := { t.status with ovr := o } }

/-- R31: a step that changes PAROK is the engine's step of a PARCHK that completes without error, or
reset; no error, no CMD write and no other command changes it. -/
def Obligations.ParokChangedOnlyByParchk : Prop :=
  ∀ s t : State, step s = .next t → t.status.parok ≠ s.status.parok →
    nextTurn s = .reset ∨
      (nextTurn s = .engine ∧ s.status.busy = true ∧ decode s.cmd = .ok .parchk ∧
        s.len.toNat ≤ s.cfg.pmax)

/-- R36, R38: a step that changes the grid store is the engine's step of an ENCODE or a DECODE that
completes, or reset, and one that changes GEOMOUT is one of these or a GEOM that completes; in
particular the host can change neither. -/
def Obligations.GridAndGeomoutWriters : Prop :=
  ∀ s t : State, step s = .next t → nextTurn s ≠ .reset →
    (t.grid ≠ s.grid → nextTurn s = .engine ∧ s.status.busy = true ∧
      t.status.ecode = s.status.ecode ∧ (decode s.cmd = .ok .encode ∨ decode s.cmd = .ok .decode)) ∧
    (t.geomout ≠ s.geomout → nextTurn s = .engine ∧ s.status.busy = true ∧
      t.status.ecode = s.status.ecode ∧
      (decode s.cmd = .ok .geom ∨ decode s.cmd = .ok .encode ∨ decode s.cmd = .ok .decode))

/-- R22: SIZE is changed by a host write to it, or reset, and by nothing else; the parameters are
changed by nothing at all (R20). -/
def Obligations.SizeAndParametersWriters : Prop :=
  ∀ s t : State, step s = .next t →
    t.cfg = s.cfg ∧
    (t.size ≠ s.size → nextTurn s = .reset ∨
      (nextTurn s = .host ∧ s.status.busy = false ∧
        ∃ rest, s.env.script = .access (.writeReg 2 t.size) :: rest))

/-- spec/20_memory.md R74, spec/70_reset_and_hazards.md R223: whatever accesses the host makes while a
command executes, they change nothing but OVR, and the engine's step then does what it would have
done without them. -/
def Obligations.AccessesCannotReachRunningCommand : Prop :=
  ∀ (s : State) (as : List Access), s.status.busy = true →
    let ovr := s.status.ovr || as.any fun a => a ≠ .readReg 1
    afterAccesses s as = { s with status := { s.status with ovr := ovr } } ∧
    ∃ t, engineStep s = .next t ∧
      engineStep (afterAccesses s as) = .next { t with status := { t.status with ovr := ovr } }

/-! ## Host scripts -/

/-- spec/30_encoding.md R100, spec/70_reset_and_hazards.md R226: with no order of turns listed, a CMD
write and the WAIT after it are over in three steps, whatever the word; the host has read the STATUS
of the completed command and goes on. (The order of the turns is the model's choice, log 4.) -/
def Obligations.CommandAndWaitComplete : Prop :=
  ∀ (s : State) (v : Word) (rest : List HostOp), s.status.busy = false → s.env.turns = [] →
    s.env.script = .access (.writeReg 0 v) :: .wait :: rest →
    ∃ t, Host.Core.run core 3 s = .next t ∧ t.cmd = v ∧ t.status.busy = false ∧
      t.status.done = true ∧ t.env.script = rest ∧
      t.env.reply = some ⟨.ok, some (.word t.status.toWord)⟩

/-- spec/95_test_vectors.md P5: a host write made while a command executes is rejected if it comes
before the engine's step and served if it comes after it; the order of turns (log 4) has both. -/
def Obligations.BothOrdersOfHostAndEngine : Prop :=
  ∀ (s : State) (i : Nat) (c : Byte), s.status.busy = true → s.env.script = [.access (.writePbuf i c)] →
    i < s.cfg.pmax →
    (s.env.turns = [.host, .engine] → ∃ t u, step s = .next t ∧ step t = .next u ∧
      t.env.reply = some ⟨.err, none⟩ ∧ u.status.ovr = true ∧
      engineStep { s.popTurn.popTurn with status := { s.status with ovr := true },
                                          env := u.env } = .next u) ∧
    (s.env.turns = [.engine, .host] → ∃ t u, step s = .next t ∧ step t = .next u ∧
      engineStep s.popTurn = .next t ∧ u.env.reply = some ⟨.ok, none⟩ ∧ u.readPbuf i = c ∧
      u.status = t.status)

/-- spec/30_encoding.md R100: LOADSTR loads the codes of its characters into PBUF and their number into
LEN, and changes nothing else. -/
def Obligations.LoadstrLoadsString : Prop :=
  ∀ (s : State) (str : List Char), s.cfg.Legal → s.status.busy = false →
    str.length ≤ s.cfg.pmax →
    let t := afterOps s (expandStmt s.cfg (.loadstr str))
    t.len.toNat = str.length ∧
    (∀ i (h : i < str.length), t.readPbuf i =
      if str[i] = '0' then s.cfg.c0 else if str[i] = '1' then s.cfg.c1
      else BitVec.ofNat 8 str[i].toNat) ∧
    (∀ i, str.length ≤ i → t.readPbuf i = s.readPbuf i) ∧
    t = { s with pbuf := t.pbuf, len := t.len }

/-- R100: LOADIMG loads its pixels into RMEM in raster order (spec/20_memory.md R66) and its
dimensions into WIDTH and HEIGHT, and changes nothing else. -/
def Obligations.LoadimgLoadsRaster : Prop :=
  ∀ (s : State) (w h : Word) (pixels : List Byte), s.status.busy = false →
    (Stmt.loadimg w h pixels).wf = true → pixels.length ≤ s.cfg.rmax →
    let t := afterOps s (expandStmt s.cfg (.loadimg w h pixels))
    t.width = w ∧ t.height = h ∧
    (∀ x y, x < w.toNat → y < h.toNat →
      pixels[y * w.toNat + x]? = some (t.readRmem (y * w.toNat + x))) ∧
    (∀ a, pixels.length ≤ a → t.readRmem a = s.readRmem a) ∧
    t = { s with rmem := t.rmem, width := w, height := h }
end

