-- ==== Sys2Proof/Laws/Memory.lean ====
section
/-! SUPPORT. The laws of a store: what a read gives after a write, that every operation keeps the
canonical form, and that the canonical form is determined by its reads. -/

namespace Sys2Proof.Machine

/-! ### Reads -/

@[simp] theorem Memory.get?_nil (i : Nat) : Memory.get? [] i = none := rfl

theorem Memory.get?_cons (a : Nat) (b : Byte) (m : Memory) (i : Nat) :
    Memory.get? ((a, b) :: m) i = if i = a then some b else Memory.get? m i := rfl

theorem Memory.get?_set (m : Memory) (i : Nat) (b : Byte) (j : Nat) :
    Memory.get? (Memory.set m i b) j = if j = i then some b else Memory.get? m j := by
  induction m with
  | nil => rfl
  | cons c m ih =>
    obtain ⟨a, c⟩ := c
    unfold Memory.set
    split
    · rfl
    · split
      · subst_vars; simp only [Memory.get?_cons]; split <;> rfl
      · simp only [Memory.get?_cons, ih]
        split
        · subst_vars; rw [if_neg (Ne.symm ‹_›)]
        · rfl

@[simp] theorem Memory.get?_set_same (m : Memory) (i : Nat) (b : Byte) :
    Memory.get? (Memory.set m i b) i = some b := by simp [Memory.get?_set]

theorem Memory.get?_set_other (m : Memory) (b : Byte) {i j : Nat} (h : j ≠ i) :
    Memory.get? (Memory.set m i b) j = Memory.get? m j := by simp [Memory.get?_set, h]

theorem Memory.get?_append (m n : Memory) (i : Nat) :
    Memory.get? (m ++ n) i = (Memory.get? m i).or (Memory.get? n i) := by
  induction m with
  | nil => rfl
  | cons c m ih =>
    obtain ⟨a, b⟩ := c
    simp only [List.cons_append, Memory.get?_cons, ih]
    split <;> rfl

theorem Memory.get?_block (f : Nat → Byte) (n start i : Nat) :
    Memory.get? (Memory.block f start n) i =
      if start ≤ i ∧ i < start + n then some (f i) else none := by
  induction n generalizing start with
  | zero => rw [if_neg (by omega)]; rfl
  | succ n ih =>
    simp only [Memory.block, Memory.get?_cons, ih]
    by_cases h : i = start
    · subst h; rw [if_pos rfl, if_pos (by omega)]
    · rw [if_neg h]
      by_cases h' : start + 1 ≤ i ∧ i < start + 1 + n
      · rw [if_pos h', if_pos (by omega)]
      · rw [if_neg h', if_neg (by omega)]

theorem Memory.get?_dropBelow (m : Memory) (n i : Nat) :
    Memory.get? (m.filter fun c => decide (n ≤ c.1)) i =
      if n ≤ i then Memory.get? m i else none := by
  induction m with
  | nil => simp
  | cons c m ih =>
    obtain ⟨a, b⟩ := c
    by_cases h : n ≤ a
    · simp only [List.filter_cons, h, decide_true, if_true, Memory.get?_cons, ih]
      by_cases hi : i = a
      · subst hi; simp [h]
      · simp [hi]
    · rw [List.filter_cons_of_neg (by simpa using h), ih, Memory.get?_cons]
      by_cases hi : i = a
      · subst hi; simp [h]
      · simp [hi]

/-- Everything a read can give after `writePrefix`. -/
theorem Memory.get?_writePrefix (m : Memory) (n : Nat) (f : Nat → Byte) (i : Nat) :
    Memory.get? (Memory.writePrefix m n f) i = if i < n then some (f i) else Memory.get? m i := by
  rw [Memory.writePrefix, Memory.get?_append, Memory.get?_block, Memory.get?_dropBelow]
  by_cases h : i < n
  · rw [if_pos (by omega), if_pos h]; rfl
  · rw [if_neg (by omega), if_pos (by omega), if_neg h]; rfl

theorem Memory.get?_eq_none_of_lt {m : Memory} {i : Nat} (h : ∀ c ∈ m, i < c.1) :
    Memory.get? m i = none := by
  induction m with
  | nil => rfl
  | cons c m ih =>
    obtain ⟨a, b⟩ := c
    have ha : i < a := h (a, b) (by simp)
    rw [Memory.get?_cons, if_neg (by omega)]
    exact ih fun c hc => h c (by simp [hc])

theorem Memory.get?_below {m : Memory} {n i : Nat} (h : Memory.below n m) (hi : n ≤ i) :
    Memory.get? m i = none := by
  induction m with
  | nil => rfl
  | cons c m ih =>
    obtain ⟨a, b⟩ := c
    have ha : a < n := h (a, b) (by simp)
    rw [Memory.get?_cons, if_neg (by omega)]
    exact ih fun c hc => h c (by simp [hc])

/-! ### The canonical form -/

theorem Memory.wf_nil : Memory.wf [] := by simp [Memory.wf]

theorem Memory.wf_cons {a : Nat} {b : Byte} {m : Memory} :
    Memory.wf ((a, b) :: m) ↔ (∀ c ∈ m, a < c.1) ∧ Memory.wf m := by
  simp only [Memory.wf, List.map_cons, List.pairwise_cons, List.mem_map, forall_exists_index, and_imp,
    forall_apply_eq_imp_iff₂]

theorem Memory.mem_set {m : Memory} {i : Nat} {b : Byte} {c : Host.Cell}
    (h : c ∈ Memory.set m i b) : c = (i, b) ∨ c ∈ m := by
  induction m with
  | nil => simpa [Memory.set] using h
  | cons d m ih =>
    obtain ⟨a, d⟩ := d
    unfold Memory.set at h
    split at h
    · simpa using h
    · split at h
      · rcases List.mem_cons.1 h with h | h
        · exact .inl h
        · exact .inr (by simp [h])
      · rcases List.mem_cons.1 h with h | h
        · exact .inr (by simp [h])
        · rcases ih h with h | h
          · exact .inl h
          · exact .inr (by simp [h])

theorem Memory.set_wf {m : Memory} (h : Memory.wf m) (i : Nat) (b : Byte) :
    Memory.wf (Memory.set m i b) := by
  induction m with
  | nil => simp [Memory.set, Memory.wf]
  | cons c m ih =>
    obtain ⟨a, c⟩ := c
    obtain ⟨hlt, hm⟩ := Memory.wf_cons.1 h
    unfold Memory.set
    split
    · refine Memory.wf_cons.2 ⟨fun d hd => ?_, h⟩
      rcases List.mem_cons.1 hd with hd | hd
      · subst hd; assumption
      · exact lt_trans ‹_› (hlt d hd)
    · split
      · subst_vars; exact Memory.wf_cons.2 ⟨hlt, hm⟩
      · refine Memory.wf_cons.2 ⟨fun d hd => ?_, ih hm⟩
        rcases Memory.mem_set hd with hd | hd
        · subst hd; show a < i; omega
        · exact hlt d hd

theorem Memory.set_below {m : Memory} {n i : Nat} (h : Memory.below n m) (hi : i < n) (b : Byte) :
    Memory.below n (Memory.set m i b) := fun c hc => by
  rcases Memory.mem_set hc with hc | hc
  · subst hc; exact hi
  · exact h c hc

theorem Memory.mem_block {f : Nat → Byte} {n start : Nat} {c : Host.Cell}
    (h : c ∈ Memory.block f start n) : start ≤ c.1 ∧ c.1 < start + n := by
  induction n generalizing start with
  | zero => simp [Memory.block] at h
  | succ n ih =>
    rcases List.mem_cons.1 h with h | h
    · subst h; show start ≤ start ∧ start < start + (n + 1); omega
    · have := ih h; omega

theorem Memory.block_wf (f : Nat → Byte) (n start : Nat) : Memory.wf (Memory.block f start n) := by
  induction n generalizing start with
  | zero => exact Memory.wf_nil
  | succ n ih =>
    refine Memory.wf_cons.2 ⟨fun c hc => ?_, ih (start + 1)⟩
    have := Memory.mem_block hc; omega

theorem Memory.writePrefix_wf {m : Memory} (h : Memory.wf m) (n : Nat) (f : Nat → Byte) :
    Memory.wf (Memory.writePrefix m n f) := by
  unfold Memory.writePrefix Memory.wf
  rw [List.map_append, List.pairwise_append]
  refine ⟨Memory.block_wf f n 0, ?_, ?_⟩
  · exact List.Pairwise.sublist (List.filter_sublist.map _) h
  · intro a ha b hb
    obtain ⟨c, hc, rfl⟩ := List.mem_map.1 ha
    obtain ⟨d, hd, rfl⟩ := List.mem_map.1 hb
    have := Memory.mem_block hc
    have hd' := (List.mem_filter.1 hd).2
    simp only [decide_eq_true_eq] at hd'
    omega

theorem Memory.writePrefix_below {m : Memory} {n k : Nat} (h : Memory.below k m) (hn : n ≤ k)
    (f : Nat → Byte) : Memory.below k (Memory.writePrefix m n f) := fun c hc => by
  rcases List.mem_append.1 hc with hc | hc
  · have := Memory.mem_block hc; omega
  · exact h c (List.mem_filter.1 hc).1

/-- Stores in canonical form that read alike are the same data. -/
theorem Memory.ext_get? {m n : Memory} (hm : Memory.wf m) (hn : Memory.wf n)
    (h : ∀ i, Memory.get? m i = Memory.get? n i) : m = n := by
  induction m generalizing n with
  | nil =>
    cases n with
    | nil => rfl
    | cons c n =>
      obtain ⟨a, b⟩ := c
      have := h a
      simp [Memory.get?_cons] at this
  | cons c m ih =>
    obtain ⟨a, b⟩ := c
    obtain ⟨hlt, hm'⟩ := Memory.wf_cons.1 hm
    cases n with
    | nil => have := h a; simp [Memory.get?_cons] at this
    | cons d n =>
      obtain ⟨a', b'⟩ := d
      obtain ⟨hlt', hn'⟩ := Memory.wf_cons.1 hn
      have haa : a = a' := by
        rcases Nat.lt_trichotomy a a' with hl | he | hl
        · have := h a
          rw [Memory.get?_cons, if_pos rfl, Memory.get?_eq_none_of_lt] at this
          · exact absurd this (by simp)
          · intro c hc
            rcases List.mem_cons.1 hc with hc | hc
            · subst hc; exact hl
            · exact lt_trans hl (hlt' c hc)
        · exact he
        · have := h a'
          rw [Memory.get?_cons (a := a'), if_pos rfl, Memory.get?_eq_none_of_lt] at this
          · exact absurd this (by simp)
          · intro c hc
            rcases List.mem_cons.1 hc with hc | hc
            · subst hc; exact hl
            · exact lt_trans hl (hlt c hc)
      subst haa
      have hb : b = b' := by simpa [Memory.get?_cons] using h a
      subst hb
      rw [ih hm' hn' fun i => ?_]
      by_cases hi : i = a
      · subst hi
        rw [Memory.get?_eq_none_of_lt hlt, Memory.get?_eq_none_of_lt hlt']
      · simpa [Memory.get?_cons, hi] using h i

/-- `writePrefix` is the loop of single writes that the spec's pseudocode makes (log 13). -/
theorem Memory.writePrefix_eq_foldl {m : Memory} (h : Memory.wf m) (n : Nat) (f : Nat → Byte) :
    Memory.writePrefix m n f = (List.range n).foldl (fun m i => Memory.set m i (f i)) m := by
  induction n with
  | zero =>
    refine Memory.ext_get? (Memory.writePrefix_wf h 0 f) h fun i => ?_
    rw [Memory.get?_writePrefix, if_neg (by omega)]; rfl
  | succ n ih =>
    rw [List.range_succ, List.foldl_append, ← ih, List.foldl_cons, List.foldl_nil]
    refine Memory.ext_get? (Memory.writePrefix_wf h _ f)
      (Memory.set_wf (Memory.writePrefix_wf h n f) n (f n)) fun i => ?_
    simp only [Memory.get?_writePrefix, Memory.get?_set]
    by_cases hi : i = n
    · subst hi; simp
    · rw [if_neg hi]
      by_cases hl : i < n
      · rw [if_pos (by omega), if_pos hl]
      · rw [if_neg (by omega), if_neg hl]

/-! ### Reads of PBUF and RMEM -/

theorem State.readPbuf_writePbuf (s : State) (i j : Nat) (c : Byte) :
    (s.writePbuf i c).readPbuf j = if j = i then c else s.readPbuf j := by
  simp only [State.readPbuf, State.writePbuf, Memory.get?_set]; split <;> rfl

theorem State.readRmem_writeRmem (s : State) (a j : Nat) (p : Byte) :
    (s.writeRmem a p).readRmem j = if j = a then p else s.readRmem j := by
  simp only [State.readRmem, State.writeRmem, Memory.get?_set]; split <;> rfl

/-- PBUF reads alike in two states that hold the same entries after the same number of resets. -/
theorem State.readPbuf_congr {s t : State} (h : t.pbuf = s.pbuf) (he : t.env.resets = s.env.resets)
    (i : Nat) : t.readPbuf i = s.readPbuf i := by
  unfold State.readPbuf; rw [h, he]

theorem State.readRmem_congr {s t : State} (h : t.rmem = s.rmem) (he : t.env.resets = s.env.resets)
    (a : Nat) : t.readRmem a = s.readRmem a := by
  unfold State.readRmem; rw [h, he]

end Sys2Proof.Machine
end

