-- ==== Sys2Proof/Laws/State.lean ====
section
/-! SUPPORT. What each named update of the state leaves in each field, so that no proof unfolds an update. -/

namespace Sys2Proof.Machine

/-! ### Status -/

@[simp] theorem Status.start_busy (s : Status) :
    (s.start).busy = true := rfl

@[simp] theorem Status.start_done (s : Status) :
    (s.start).done = false := rfl

@[simp] theorem Status.start_err (s : Status) :
    (s.start).err = false := rfl

@[simp] theorem Status.start_parok (s : Status) :
    (s.start).parok = s.parok := rfl

@[simp] theorem Status.start_ecode (s : Status) :
    (s.start).ecode = none := rfl

@[simp] theorem Status.start_ovr (s : Status) :
    (s.start).ovr = s.ovr := rfl

@[simp] theorem Status.complete_busy (s : Status) :
    (s.complete).busy = false := rfl

@[simp] theorem Status.complete_done (s : Status) :
    (s.complete).done = true := rfl

@[simp] theorem Status.complete_err (s : Status) :
    (s.complete).err = s.err := rfl

@[simp] theorem Status.complete_parok (s : Status) :
    (s.complete).parok = s.parok := rfl

@[simp] theorem Status.complete_ecode (s : Status) :
    (s.complete).ecode = s.ecode := rfl

@[simp] theorem Status.complete_ovr (s : Status) :
    (s.complete).ovr = s.ovr := rfl

@[simp] theorem Status.raise_busy (s : Status) (e : ErrorKind) :
    (s.raise e).busy = false := rfl

@[simp] theorem Status.raise_done (s : Status) (e : ErrorKind) :
    (s.raise e).done = true := rfl

@[simp] theorem Status.raise_err (s : Status) (e : ErrorKind) :
    (s.raise e).err = true := rfl

@[simp] theorem Status.raise_parok (s : Status) (e : ErrorKind) :
    (s.raise e).parok = s.parok := rfl

@[simp] theorem Status.raise_ecode (s : Status) (e : ErrorKind) :
    (s.raise e).ecode = some e := rfl

@[simp] theorem Status.raise_ovr (s : Status) (e : ErrorKind) :
    (s.raise e).ovr = s.ovr := rfl

@[simp] theorem Status.setOvr_busy (s : Status) :
    (s.setOvr).busy = s.busy := rfl

@[simp] theorem Status.setOvr_done (s : Status) :
    (s.setOvr).done = s.done := rfl

@[simp] theorem Status.setOvr_err (s : Status) :
    (s.setOvr).err = s.err := rfl

@[simp] theorem Status.setOvr_parok (s : Status) :
    (s.setOvr).parok = s.parok := rfl

@[simp] theorem Status.setOvr_ecode (s : Status) :
    (s.setOvr).ecode = s.ecode := rfl

@[simp] theorem Status.setOvr_ovr (s : Status) :
    (s.setOvr).ovr = true := rfl

@[simp] theorem Status.setParok_busy (s : Status) (b : Bool) :
    (s.setParok b).busy = s.busy := rfl

@[simp] theorem Status.setParok_done (s : Status) (b : Bool) :
    (s.setParok b).done = s.done := rfl

@[simp] theorem Status.setParok_err (s : Status) (b : Bool) :
    (s.setParok b).err = s.err := rfl

@[simp] theorem Status.setParok_parok (s : Status) (b : Bool) :
    (s.setParok b).parok = b := rfl

@[simp] theorem Status.setParok_ecode (s : Status) (b : Bool) :
    (s.setParok b).ecode = s.ecode := rfl

@[simp] theorem Status.setParok_ovr (s : Status) (b : Bool) :
    (s.setParok b).ovr = s.ovr := rfl

/-! ### PBUF -/

@[simp] theorem State.writePbuf_cfg (s : State) (i : Nat) (c : Byte) :
    (s.writePbuf i c).cfg = s.cfg := rfl

@[simp] theorem State.writePbuf_cmd (s : State) (i : Nat) (c : Byte) :
    (s.writePbuf i c).cmd = s.cmd := rfl

@[simp] theorem State.writePbuf_status (s : State) (i : Nat) (c : Byte) :
    (s.writePbuf i c).status = s.status := rfl

@[simp] theorem State.writePbuf_size (s : State) (i : Nat) (c : Byte) :
    (s.writePbuf i c).size = s.size := rfl

@[simp] theorem State.writePbuf_len (s : State) (i : Nat) (c : Byte) :
    (s.writePbuf i c).len = s.len := rfl

@[simp] theorem State.writePbuf_width (s : State) (i : Nat) (c : Byte) :
    (s.writePbuf i c).width = s.width := rfl

@[simp] theorem State.writePbuf_height (s : State) (i : Nat) (c : Byte) :
    (s.writePbuf i c).height = s.height := rfl

@[simp] theorem State.writePbuf_geomout (s : State) (i : Nat) (c : Byte) :
    (s.writePbuf i c).geomout = s.geomout := rfl

@[simp] theorem State.writePbuf_grid (s : State) (i : Nat) (c : Byte) :
    (s.writePbuf i c).grid = s.grid := rfl

@[simp] theorem State.writePbuf_pbuf (s : State) (i : Nat) (c : Byte) :
    (s.writePbuf i c).pbuf = Memory.set s.pbuf i c := rfl

@[simp] theorem State.writePbuf_rmem (s : State) (i : Nat) (c : Byte) :
    (s.writePbuf i c).rmem = s.rmem := rfl

@[simp] theorem State.writePbuf_env (s : State) (i : Nat) (c : Byte) :
    (s.writePbuf i c).env = s.env := rfl

/-! ### RMEM -/

@[simp] theorem State.writeRmem_cfg (s : State) (a : Nat) (p : Byte) :
    (s.writeRmem a p).cfg = s.cfg := rfl

@[simp] theorem State.writeRmem_cmd (s : State) (a : Nat) (p : Byte) :
    (s.writeRmem a p).cmd = s.cmd := rfl

@[simp] theorem State.writeRmem_status (s : State) (a : Nat) (p : Byte) :
    (s.writeRmem a p).status = s.status := rfl

@[simp] theorem State.writeRmem_size (s : State) (a : Nat) (p : Byte) :
    (s.writeRmem a p).size = s.size := rfl

@[simp] theorem State.writeRmem_len (s : State) (a : Nat) (p : Byte) :
    (s.writeRmem a p).len = s.len := rfl

@[simp] theorem State.writeRmem_width (s : State) (a : Nat) (p : Byte) :
    (s.writeRmem a p).width = s.width := rfl

@[simp] theorem State.writeRmem_height (s : State) (a : Nat) (p : Byte) :
    (s.writeRmem a p).height = s.height := rfl

@[simp] theorem State.writeRmem_geomout (s : State) (a : Nat) (p : Byte) :
    (s.writeRmem a p).geomout = s.geomout := rfl

@[simp] theorem State.writeRmem_grid (s : State) (a : Nat) (p : Byte) :
    (s.writeRmem a p).grid = s.grid := rfl

@[simp] theorem State.writeRmem_pbuf (s : State) (a : Nat) (p : Byte) :
    (s.writeRmem a p).pbuf = s.pbuf := rfl

@[simp] theorem State.writeRmem_rmem (s : State) (a : Nat) (p : Byte) :
    (s.writeRmem a p).rmem = Memory.set s.rmem a p := rfl

@[simp] theorem State.writeRmem_env (s : State) (a : Nat) (p : Byte) :
    (s.writeRmem a p).env = s.env := rfl

/-! ### A command starts -/

@[simp] theorem State.startCommand_cfg (s : State) (v : Word) :
    (s.startCommand v).cfg = s.cfg := rfl

@[simp] theorem State.startCommand_cmd (s : State) (v : Word) :
    (s.startCommand v).cmd = v := rfl

@[simp] theorem State.startCommand_status (s : State) (v : Word) :
    (s.startCommand v).status = s.status.start := rfl

@[simp] theorem State.startCommand_size (s : State) (v : Word) :
    (s.startCommand v).size = s.size := rfl

@[simp] theorem State.startCommand_len (s : State) (v : Word) :
    (s.startCommand v).len = s.len := rfl

@[simp] theorem State.startCommand_width (s : State) (v : Word) :
    (s.startCommand v).width = s.width := rfl

@[simp] theorem State.startCommand_height (s : State) (v : Word) :
    (s.startCommand v).height = s.height := rfl

@[simp] theorem State.startCommand_geomout (s : State) (v : Word) :
    (s.startCommand v).geomout = s.geomout := rfl

@[simp] theorem State.startCommand_grid (s : State) (v : Word) :
    (s.startCommand v).grid = s.grid := rfl

@[simp] theorem State.startCommand_pbuf (s : State) (v : Word) :
    (s.startCommand v).pbuf = s.pbuf := rfl

@[simp] theorem State.startCommand_rmem (s : State) (v : Word) :
    (s.startCommand v).rmem = s.rmem := rfl

@[simp] theorem State.startCommand_env (s : State) (v : Word) :
    (s.startCommand v).env = s.env := rfl

/-! ### A command completes -/

@[simp] theorem State.complete_cfg (s : State) :
    (s.complete).cfg = s.cfg := rfl

@[simp] theorem State.complete_cmd (s : State) :
    (s.complete).cmd = s.cmd := rfl

@[simp] theorem State.complete_status (s : State) :
    (s.complete).status = s.status.complete := rfl

@[simp] theorem State.complete_size (s : State) :
    (s.complete).size = s.size := rfl

@[simp] theorem State.complete_len (s : State) :
    (s.complete).len = s.len := rfl

@[simp] theorem State.complete_width (s : State) :
    (s.complete).width = s.width := rfl

@[simp] theorem State.complete_height (s : State) :
    (s.complete).height = s.height := rfl

@[simp] theorem State.complete_geomout (s : State) :
    (s.complete).geomout = s.geomout := rfl

@[simp] theorem State.complete_grid (s : State) :
    (s.complete).grid = s.grid := rfl

@[simp] theorem State.complete_pbuf (s : State) :
    (s.complete).pbuf = s.pbuf := rfl

@[simp] theorem State.complete_rmem (s : State) :
    (s.complete).rmem = s.rmem := rfl

@[simp] theorem State.complete_env (s : State) :
    (s.complete).env = s.env := rfl

/-! ### A command raises an error -/

@[simp] theorem State.raise_cfg (s : State) (e : ErrorKind) :
    (s.raise e).cfg = s.cfg := rfl

@[simp] theorem State.raise_cmd (s : State) (e : ErrorKind) :
    (s.raise e).cmd = s.cmd := rfl

@[simp] theorem State.raise_status (s : State) (e : ErrorKind) :
    (s.raise e).status = s.status.raise e := rfl

@[simp] theorem State.raise_size (s : State) (e : ErrorKind) :
    (s.raise e).size = s.size := rfl

@[simp] theorem State.raise_len (s : State) (e : ErrorKind) :
    (s.raise e).len = s.len := rfl

@[simp] theorem State.raise_width (s : State) (e : ErrorKind) :
    (s.raise e).width = s.width := rfl

@[simp] theorem State.raise_height (s : State) (e : ErrorKind) :
    (s.raise e).height = s.height := rfl

@[simp] theorem State.raise_geomout (s : State) (e : ErrorKind) :
    (s.raise e).geomout = s.geomout := rfl

@[simp] theorem State.raise_grid (s : State) (e : ErrorKind) :
    (s.raise e).grid = s.grid := rfl

@[simp] theorem State.raise_pbuf (s : State) (e : ErrorKind) :
    (s.raise e).pbuf = s.pbuf := rfl

@[simp] theorem State.raise_rmem (s : State) (e : ErrorKind) :
    (s.raise e).rmem = s.rmem := rfl

@[simp] theorem State.raise_env (s : State) (e : ErrorKind) :
    (s.raise e).env = s.env := rfl

/-! ### Reset -/

@[simp] theorem State.resetBlock_cfg (s : State) :
    (s.resetBlock).cfg = s.cfg := rfl

@[simp] theorem State.resetBlock_cmd (s : State) :
    (s.resetBlock).cmd = State.reset.cmd := rfl

@[simp] theorem State.resetBlock_status (s : State) :
    (s.resetBlock).status = State.reset.status := rfl

@[simp] theorem State.resetBlock_size (s : State) :
    (s.resetBlock).size = State.reset.size := rfl

@[simp] theorem State.resetBlock_len (s : State) :
    (s.resetBlock).len = State.reset.len := rfl

@[simp] theorem State.resetBlock_width (s : State) :
    (s.resetBlock).width = State.reset.width := rfl

@[simp] theorem State.resetBlock_height (s : State) :
    (s.resetBlock).height = State.reset.height := rfl

@[simp] theorem State.resetBlock_geomout (s : State) :
    (s.resetBlock).geomout = State.reset.geomout := rfl

@[simp] theorem State.resetBlock_grid (s : State) :
    (s.resetBlock).grid = State.reset.grid := rfl

@[simp] theorem State.resetBlock_pbuf (s : State) :
    (s.resetBlock).pbuf = State.reset.pbuf := rfl

@[simp] theorem State.resetBlock_rmem (s : State) :
    (s.resetBlock).rmem = State.reset.rmem := rfl

@[simp] theorem State.resetBlock_env (s : State) :
    (s.resetBlock).env = { s.env with resets := s.env.resets + 1 } := rfl

/-! ### The host's side -/

@[simp] theorem State.withReply_cfg (s : State) (r : Reply) :
    (s.withReply r).cfg = s.cfg := rfl

@[simp] theorem State.withReply_cmd (s : State) (r : Reply) :
    (s.withReply r).cmd = s.cmd := rfl

@[simp] theorem State.withReply_status (s : State) (r : Reply) :
    (s.withReply r).status = s.status := rfl

@[simp] theorem State.withReply_size (s : State) (r : Reply) :
    (s.withReply r).size = s.size := rfl

@[simp] theorem State.withReply_len (s : State) (r : Reply) :
    (s.withReply r).len = s.len := rfl

@[simp] theorem State.withReply_width (s : State) (r : Reply) :
    (s.withReply r).width = s.width := rfl

@[simp] theorem State.withReply_height (s : State) (r : Reply) :
    (s.withReply r).height = s.height := rfl

@[simp] theorem State.withReply_geomout (s : State) (r : Reply) :
    (s.withReply r).geomout = s.geomout := rfl

@[simp] theorem State.withReply_grid (s : State) (r : Reply) :
    (s.withReply r).grid = s.grid := rfl

@[simp] theorem State.withReply_pbuf (s : State) (r : Reply) :
    (s.withReply r).pbuf = s.pbuf := rfl

@[simp] theorem State.withReply_rmem (s : State) (r : Reply) :
    (s.withReply r).rmem = s.rmem := rfl

@[simp] theorem State.withReply_env (s : State) (r : Reply) :
    (s.withReply r).env = { s.env with reply := some r } := rfl

@[simp] theorem State.withScript_cfg (s : State) (ops : List HostOp) :
    (s.withScript ops).cfg = s.cfg := rfl

@[simp] theorem State.withScript_cmd (s : State) (ops : List HostOp) :
    (s.withScript ops).cmd = s.cmd := rfl

@[simp] theorem State.withScript_status (s : State) (ops : List HostOp) :
    (s.withScript ops).status = s.status := rfl

@[simp] theorem State.withScript_size (s : State) (ops : List HostOp) :
    (s.withScript ops).size = s.size := rfl

@[simp] theorem State.withScript_len (s : State) (ops : List HostOp) :
    (s.withScript ops).len = s.len := rfl

@[simp] theorem State.withScript_width (s : State) (ops : List HostOp) :
    (s.withScript ops).width = s.width := rfl

@[simp] theorem State.withScript_height (s : State) (ops : List HostOp) :
    (s.withScript ops).height = s.height := rfl

@[simp] theorem State.withScript_geomout (s : State) (ops : List HostOp) :
    (s.withScript ops).geomout = s.geomout := rfl

@[simp] theorem State.withScript_grid (s : State) (ops : List HostOp) :
    (s.withScript ops).grid = s.grid := rfl

@[simp] theorem State.withScript_pbuf (s : State) (ops : List HostOp) :
    (s.withScript ops).pbuf = s.pbuf := rfl

@[simp] theorem State.withScript_rmem (s : State) (ops : List HostOp) :
    (s.withScript ops).rmem = s.rmem := rfl

@[simp] theorem State.withScript_env (s : State) (ops : List HostOp) :
    (s.withScript ops).env = { s.env with script := ops } := rfl

/-! ### Turns -/

@[simp] theorem State.popTurn_cfg (s : State) :
    (s.popTurn).cfg = s.cfg := rfl

@[simp] theorem State.popTurn_cmd (s : State) :
    (s.popTurn).cmd = s.cmd := rfl

@[simp] theorem State.popTurn_status (s : State) :
    (s.popTurn).status = s.status := rfl

@[simp] theorem State.popTurn_size (s : State) :
    (s.popTurn).size = s.size := rfl

@[simp] theorem State.popTurn_len (s : State) :
    (s.popTurn).len = s.len := rfl

@[simp] theorem State.popTurn_width (s : State) :
    (s.popTurn).width = s.width := rfl

@[simp] theorem State.popTurn_height (s : State) :
    (s.popTurn).height = s.height := rfl

@[simp] theorem State.popTurn_geomout (s : State) :
    (s.popTurn).geomout = s.geomout := rfl

@[simp] theorem State.popTurn_grid (s : State) :
    (s.popTurn).grid = s.grid := rfl

@[simp] theorem State.popTurn_pbuf (s : State) :
    (s.popTurn).pbuf = s.pbuf := rfl

@[simp] theorem State.popTurn_rmem (s : State) :
    (s.popTurn).rmem = s.rmem := rfl

@[simp] theorem State.popTurn_env (s : State) :
    (s.popTurn).env = { s.env with turns := s.env.turns.tail } := rfl

@[simp] theorem State.withEngineNext_cfg (s : State) :
    (s.withEngineNext).cfg = s.cfg := by
  unfold State.withEngineNext; split <;> rfl

@[simp] theorem State.withEngineNext_cmd (s : State) :
    (s.withEngineNext).cmd = s.cmd := by
  unfold State.withEngineNext; split <;> rfl

@[simp] theorem State.withEngineNext_status (s : State) :
    (s.withEngineNext).status = s.status := by
  unfold State.withEngineNext; split <;> rfl

@[simp] theorem State.withEngineNext_size (s : State) :
    (s.withEngineNext).size = s.size := by
  unfold State.withEngineNext; split <;> rfl

@[simp] theorem State.withEngineNext_len (s : State) :
    (s.withEngineNext).len = s.len := by
  unfold State.withEngineNext; split <;> rfl

@[simp] theorem State.withEngineNext_width (s : State) :
    (s.withEngineNext).width = s.width := by
  unfold State.withEngineNext; split <;> rfl

@[simp] theorem State.withEngineNext_height (s : State) :
    (s.withEngineNext).height = s.height := by
  unfold State.withEngineNext; split <;> rfl

@[simp] theorem State.withEngineNext_geomout (s : State) :
    (s.withEngineNext).geomout = s.geomout := by
  unfold State.withEngineNext; split <;> rfl

@[simp] theorem State.withEngineNext_grid (s : State) :
    (s.withEngineNext).grid = s.grid := by
  unfold State.withEngineNext; split <;> rfl

@[simp] theorem State.withEngineNext_pbuf (s : State) :
    (s.withEngineNext).pbuf = s.pbuf := by
  unfold State.withEngineNext; split <;> rfl

@[simp] theorem State.withEngineNext_rmem (s : State) :
    (s.withEngineNext).rmem = s.rmem := by
  unfold State.withEngineNext; split <;> rfl

@[simp] theorem State.withEngineNext_popTurn (s : State) : s.withEngineNext.popTurn = s := by
  obtain ⟨_, _, _, _, _, _, _, _, _, _, _, ⟨_, _, ts, _⟩⟩ := s
  cases ts <;> rfl

theorem nextTurn_withEngineNext {s : State} (h : s.status.busy = true) :
    nextTurn s.withEngineNext = .engine := by
  obtain ⟨_, _, _, _, _, _, _, _, _, _, _, ⟨_, _, ts, _⟩⟩ := s
  cases ts with
  | nil => exact if_pos h
  | cons => rfl

/-! ### The commit of ENCODE -/

@[simp] theorem encodeCommit_cfg (s : State) (c : SizeClass) :
    (encodeCommit s c).cfg = s.cfg := rfl

@[simp] theorem encodeCommit_cmd (s : State) (c : SizeClass) :
    (encodeCommit s c).cmd = s.cmd := rfl

@[simp] theorem encodeCommit_status (s : State) (c : SizeClass) :
    (encodeCommit s c).status = s.status := rfl

@[simp] theorem encodeCommit_size (s : State) (c : SizeClass) :
    (encodeCommit s c).size = s.size := rfl

@[simp] theorem encodeCommit_len (s : State) (c : SizeClass) :
    (encodeCommit s c).len = s.len := rfl

@[simp] theorem encodeCommit_width (s : State) (c : SizeClass) :
    (encodeCommit s c).width = BitVec.ofNat 32 (rasterSide s.cfg c) := rfl

@[simp] theorem encodeCommit_height (s : State) (c : SizeClass) :
    (encodeCommit s c).height = BitVec.ofNat 32 (rasterSide s.cfg c) := rfl

@[simp] theorem encodeCommit_geomout (s : State) (c : SizeClass) :
    (encodeCommit s c).geomout = geomOutOf c := rfl

@[simp] theorem encodeCommit_grid (s : State) (c : SizeClass) :
    (encodeCommit s c).grid = Grid.ofFn (encodedCell s.cfg c s.readPbuf) := rfl

@[simp] theorem encodeCommit_pbuf (s : State) (c : SizeClass) :
    (encodeCommit s c).pbuf = s.pbuf := rfl

@[simp] theorem encodeCommit_rmem (s : State) (c : SizeClass) :
    (encodeCommit s c).rmem = Memory.writePrefix s.rmem (rasterSide s.cfg c * rasterSide s.cfg c)
      (rasterPixel s.cfg c (encodedCell s.cfg c s.readPbuf)) := rfl

@[simp] theorem encodeCommit_env (s : State) (c : SizeClass) :
    (encodeCommit s c).env = s.env := rfl

/-! ### The commit of DECODE -/

@[simp] theorem decodeCommit_cfg (s : State) (c : SizeClass) :
    (decodeCommit s c).cfg = s.cfg := rfl

@[simp] theorem decodeCommit_cmd (s : State) (c : SizeClass) :
    (decodeCommit s c).cmd = s.cmd := rfl

@[simp] theorem decodeCommit_status (s : State) (c : SizeClass) :
    (decodeCommit s c).status = s.status := rfl

@[simp] theorem decodeCommit_size (s : State) (c : SizeClass) :
    (decodeCommit s c).size = s.size := rfl

@[simp] theorem decodeCommit_len (s : State) (c : SizeClass) :
    (decodeCommit s c).len = BitVec.ofNat 32 (payloadCapacity c) := rfl

@[simp] theorem decodeCommit_width (s : State) (c : SizeClass) :
    (decodeCommit s c).width = s.width := rfl

@[simp] theorem decodeCommit_height (s : State) (c : SizeClass) :
    (decodeCommit s c).height = s.height := rfl

@[simp] theorem decodeCommit_geomout (s : State) (c : SizeClass) :
    (decodeCommit s c).geomout = geomOutOf c := rfl

@[simp] theorem decodeCommit_grid (s : State) (c : SizeClass) :
    (decodeCommit s c).grid = Grid.ofFn (s.sampledCell c s.width.toNat s.height.toNat) := rfl

@[simp] theorem decodeCommit_pbuf (s : State) (c : SizeClass) :
    (decodeCommit s c).pbuf = Memory.writePrefix s.pbuf (payloadCapacity c)
      (extractedChar s.cfg c (s.sampledCell c s.width.toNat s.height.toNat)) := rfl

@[simp] theorem decodeCommit_rmem (s : State) (c : SizeClass) :
    (decodeCommit s c).rmem = s.rmem := rfl

@[simp] theorem decodeCommit_env (s : State) (c : SizeClass) :
    (decodeCommit s c).env = s.env := rfl

end Sys2Proof.Machine
end

