-- ==== Sys2Proof/Laws/Ops.lean ====
section
/-! SUPPORT. The laws of the grid store, of the register numbers and of the host port. -/

namespace Sys2Proof.Machine

/-! ### The grid store -/

@[simp] theorem Grid.cell_ofFn (f : Nat → Nat → Cell) {x y : Nat} (hx : x < 7) (hy : y < 7) :
    (Grid.ofFn f).cell x y = f x y := by
  simp [Grid.cell, Grid.ofFn, hx, hy]

theorem Grid.cell_outside (g : Grid) {x y : Nat} (h : ¬(x < 7 ∧ y < 7)) : g.cell x y = .white := by
  rw [Grid.cell, dif_neg h]

/-- Two grid stores with the same cells are the same data. -/
theorem Grid.ext_cell {g g' : Grid} (h : ∀ x y, x < 7 → y < 7 → g.cell x y = g'.cell x y) :
    g = g' := by
  refine Vector.ext fun y hy => Vector.ext fun x hx => ?_
  simpa [Grid.cell, hx, hy] using h x y hx hy

/-! ### Register numbers -/

@[simp] theorem regOfIndex_regIndex (r : Reg) : regOfIndex (regIndex r) = some r := by
  cases r with
  | grid y => fin_cases y <;> rfl
  | _ => rfl

theorem regIndex_lt (r : Reg) : regIndex r < 16 := by
  cases r with
  | grid y => have := y.isLt; show 9 + (y : Nat) < 16; omega
  | _ => decide

theorem regOfIndex_eq_some {i : Nat} {r : Reg} (h : regOfIndex i = some r) : regIndex r = i := by
  unfold regOfIndex at h
  split at h
  all_goals first
    | (cases h; rfl)
    | (split at h
       · cases h; exact Nat.add_comm _ _
       · cases h)

theorem regOfIndex_eq_none {i : Nat} : regOfIndex i = none ↔ 16 ≤ i := by
  unfold regOfIndex
  split
  iterate 9 (simp only [reduceCtorEq, false_iff]; omega)
  split
  · simp only [reduceCtorEq, false_iff]; omega
  · simp only [true_iff]; omega

/-! ### The host port -/

/-- Everything an access can do to the block. -/
theorem portAccess_cases (a : Access) (s : State) :
    (s.status.busy = true ∧ a = .readReg 1 ∧ (portAccess a s).1 = s) ∨
    (s.status.busy = true ∧ a ≠ .readReg 1 ∧
      portAccess a s = ({ s with status := s.status.setOvr }, .err)) ∨
    (s.status.busy = false ∧ (portAccess a s).1 = s) ∨
    (s.status.busy = false ∧ ∃ i r v, a = .writeReg i v ∧ regOfIndex i = some r ∧
      portAccess a s = (s.writeReg r v, .written)) ∨
    (s.status.busy = false ∧ ∃ i c, a = .writePbuf i c ∧ i < s.cfg.pmax ∧
      portAccess a s = (s.writePbuf i c, .written)) ∨
    (s.status.busy = false ∧ ∃ i p, a = .writeRmem i p ∧ i < s.cfg.rmax ∧
      portAccess a s = (s.writeRmem i p, .written)) := by
  unfold portAccess
  cases hb : s.status.busy
  · simp only [Bool.false_eq_true, if_false, true_and, false_and, false_or]
    unfold idleAccess
    cases a with
    | readReg i => left; dsimp only; split <;> rfl
    | writeReg i v =>
      dsimp only; split
      · exact .inr (.inl ⟨i, _, v, rfl, ‹_›, rfl⟩)
      · exact .inl rfl
    | readPbuf i => left; dsimp only; split <;> rfl
    | writePbuf i c =>
      dsimp only; split
      · exact .inr (.inr (.inl ⟨i, c, rfl, ‹_›, rfl⟩))
      · exact .inl rfl
    | readRmem i => left; dsimp only; split <;> rfl
    | writeRmem i p =>
      dsimp only; split
      · exact .inr (.inr (.inr ⟨i, p, rfl, ‹_›, rfl⟩))
      · exact .inl rfl
  · simp only [if_true, true_and]
    unfold busyAccess
    split
    · exact .inl ⟨‹_›, rfl⟩
    · exact .inr (.inl ⟨‹_›, rfl⟩)

end Sys2Proof.Machine
end

