-- ==== Sys2Proof/Laws/Commands.lean ====
section
/-! SUPPORT. What each command's checks let through, and everything each command can answer. -/

namespace Sys2Proof.Machine

theorem sizeClass?_eq_some {s : Word} {c : SizeClass} :
    sizeClass? s = some c ↔ s.toNat = c.side := by
  unfold sizeClass?
  split
  · subst_vars; cases c <;> decide
  · split
    · subst_vars; cases c <;> decide
    · cases c <;> simp only [SizeClass.side, reduceCtorEq, false_iff] <;> bv_omega

theorem sizeClass?_eq_none {s : Word} : sizeClass? s = none ↔ s.toNat ≠ 5 ∧ s.toNat ≠ 7 := by
  unfold sizeClass?
  split
  · subst_vars; decide
  · split
    · subst_vars; decide
    · simp only [true_iff]; bv_omega

theorem sizeOfTransitions_eq_some {t : Nat} {c : SizeClass} :
    sizeOfTransitions t = some c ↔ t = borderTransitionCount c := by
  unfold sizeOfTransitions borderTransitionCount
  cases c <;> simp only [SizeClass.side] <;> split <;> try split
  all_goals simp_all

theorem isBitChar_iff {c : Config} {b : Byte} : isBitChar c b = true ↔ b = c.c0 ∨ b = c.c1 := by
  simp [isBitChar]

/-- The checks of ENCODE pass exactly on its operands (spec/41_encoder.md R121). -/
theorem encodeCheck_eq_ok {s : State} {c : SizeClass} :
    encodeCheck s = .ok c ↔ s.len.toNat ≤ s.cfg.pmax ∧ s.size.toNat = c.side ∧
      (∀ i, i < s.len.toNat → s.readPbuf i = s.cfg.c0 ∨ s.readPbuf i = s.cfg.c1) ∧
      s.len.toNat = payloadCapacity c := by
  unfold encodeCheck
  split
  · simp only [reduceCtorEq, false_iff]; omega
  · rw [← sizeClass?_eq_some]
    cases h : sizeClass? s.size with
    | none => simp
    | some d =>
      simp only [List.any_eq_true, List.mem_range, Bool.not_eq_true', Option.some.injEq]
      split
      · rename_i hx
        obtain ⟨i, hi, hb⟩ := hx
        simp only [reduceCtorEq, false_iff, not_and]
        intro _ _ hall
        have := isBitChar_iff.2 (hall i hi)
        simp [this] at hb
      · rename_i hx
        have hall : ∀ i, i < s.len.toNat → s.readPbuf i = s.cfg.c0 ∨ s.readPbuf i = s.cfg.c1 := by
          intro i hi
          by_contra hn
          exact hx ⟨i, hi, by simpa [isBitChar] using hn⟩
        split
        · simp only [reduceCtorEq, false_iff]
          rintro ⟨_, rfl, _, hl⟩; exact absurd hl ‹_›
        · simp only [Except.ok.injEq]
          constructor
          · rintro rfl; exact ⟨by omega, rfl, hall, by omega⟩
          · rintro ⟨_, rfl, _⟩; rfl

/-- The checks of DECODE pass exactly on its operands (spec/42_decoder.md R141, R144). -/
theorem decodeCheck_eq_ok {s : State} {c : SizeClass} :
    decodeCheck s = .ok c ↔ s.width.toNat ≠ 0 ∧ s.height.toNat ≠ 0 ∧
      s.width.toNat * s.height.toNat ≤ s.cfg.rmax ∧
      s.transitions s.width.toNat = borderTransitionCount c := by
  unfold decodeCheck
  split
  · simp only [reduceCtorEq, false_iff]; omega
  · rw [← sizeOfTransitions_eq_some]
    cases h : sizeOfTransitions (s.transitions s.width.toNat) with
    | none => simp
    | some d => simp only [Except.ok.injEq, Option.some.injEq]; constructor <;> intro hh <;> simp_all

/-- The transition count as a number of places in row 0 (spec/42_decoder.md R143). -/
theorem State.transitions_eq_card (s : State) (w : Nat) :
    s.transitions w = ((Finset.range (w - 1)).filter fun x =>
      ¬((s.readRmem x).toNat < s.cfg.t ↔ (s.readRmem (x + 1)).toNat < s.cfg.t)).card := by
  unfold State.transitions
  rw [List.countP_eq_length_filter, Finset.card_def, Finset.filter_val, Finset.range_val,
    Multiset.range, Multiset.filter_coe, Multiset.coe_card]
  congr 2
  funext x
  simp only [State.bin, State.pixel, rasterIndex, Nat.zero_mul, Nat.zero_add, binarize]
  rw [decide_eq_decide]
  split <;> split <;> simp_all <;> omega

/-- `ones` as a number of places (spec/43_integrity.md R170). -/
theorem State.ones_eq_card (s : State) (n : Nat) :
    s.ones n = ((Finset.range n).filter fun i => s.readPbuf i = s.cfg.c1).card := by
  unfold State.ones
  rw [List.countP_eq_length_filter, Finset.card_def, Finset.filter_val, Finset.range_val,
    Multiset.range, Multiset.filter_coe, Multiset.coe_card]

theorem execGeom_cases {s t : State} (h : execGeom s = .next t) :
    (sizeClass? s.size = none ∧ t = s.raise .invalidSizeClass) ∨
    ∃ c, sizeClass? s.size = some c ∧ t = { s with geomout := geomOutOf c }.complete := by
  unfold execGeom at h
  split at h <;> cases h
  · exact .inl ⟨‹_›, rfl⟩
  · exact .inr ⟨_, ‹_›, rfl⟩

theorem execEncode_cases {s t : State} (h : execEncode s = .next t) :
    (∃ e, encodeCheck s = .error e ∧ t = s.raise e) ∨
    ∃ c, encodeCheck s = .ok c ∧ t = (encodeCommit s c).complete := by
  unfold execEncode at h
  split at h <;> cases h
  · exact .inl ⟨_, ‹_›, rfl⟩
  · exact .inr ⟨_, ‹_›, rfl⟩

theorem execDecode_cases {s t : State} (h : execDecode s = .next t) :
    (∃ e, decodeCheck s = .error e ∧ t = s.raise e) ∨
    ∃ c, decodeCheck s = .ok c ∧ t = (decodeCommit s c).complete := by
  unfold execDecode at h
  split at h <;> cases h
  · exact .inl ⟨_, ‹_›, rfl⟩
  · exact .inr ⟨_, ‹_›, rfl⟩

theorem execParapp_cases {s t : State} (h : execParapp s = .next t) :
    (s.cfg.pmax ≤ s.len.toNat ∧ t = s.raise .bufferOverflow) ∨
    (s.len.toNat < s.cfg.pmax ∧
      t = { s.writePbuf s.len.toNat (s.parityChar s.len.toNat) with
            len := BitVec.ofNat 32 (s.len.toNat + 1) }.complete) := by
  unfold execParapp at h
  split at h <;> cases h
  · exact .inl ⟨‹_›, rfl⟩
  · exact .inr ⟨by omega, rfl⟩

theorem execParchk_cases {s t : State} (h : execParchk s = .next t) :
    (s.cfg.pmax < s.len.toNat ∧ t = s.raise .bufferOverflow) ∨
    (s.len.toNat ≤ s.cfg.pmax ∧
      t = { s with status := s.status.setParok (s.parityHolds s.len.toNat) }.complete) := by
  unfold execParchk at h
  split at h <;> cases h
  · exact .inl ⟨‹_›, rfl⟩
  · exact .inr ⟨by omega, rfl⟩

end Sys2Proof.Machine
end

