-- ==== Sys2Proof/Laws/PerInstr.lean ====
section
/-! SUPPORT. Statements about every instruction as syntax, one lemma per constructor. -/

namespace Sys2Proof.Laws.WordInTable

/-- The instruction is well formed and its word is one of the five opcodes (spec/30_encoding.md R91). -/
def Statement (i : Instr) : Prop :=
  i.wf = true ∧ 1 ≤ (encode i).toNat ∧ (encode i).toNat ≤ 5

theorem geom : Statement .geom := by unfold Statement; decide
theorem encode : Statement .encode := by unfold Statement; decide
theorem decode : Statement .decode := by unfold Statement; decide
theorem parapp : Statement .parapp := by unfold Statement; decide
theorem parchk : Statement .parchk := by unfold Statement; decide

end Sys2Proof.Laws.WordInTable
end

