-- ==== Sys2Proof/Laws/Step.lean ====
section
/-! SUPPORT. Everything one step can do: which event it was, and what that event did to the block. -/

namespace Sys2Proof.Machine

/-- Every event answers a next state, and which one it was. -/
theorem step_cases {s t : State} (h : step s = .next t) :
    (nextTurn s = .reset ∧ t = s.popTurn.resetBlock) ∨
    (nextTurn s = .host ∧ t = hostTurn s.popTurn) ∨
    (nextTurn s = .engine ∧ s.status.busy = false ∧ t = s.popTurn) ∨
    (nextTurn s = .engine ∧ s.status.busy = true ∧ engineStep s.popTurn = .next t) := by
  unfold step runTurn at h
  split at h
  · rename_i hn
    split at h
    · exact .inr (.inr (.inr ⟨hn, ‹_›, h⟩))
    · rename_i hb
      cases h; exact .inr (.inr (.inl ⟨hn, by simpa using hb, rfl⟩))
  · cases h; exact .inr (.inl ⟨‹_›, rfl⟩)
  · cases h; exact .inl ⟨‹_›, rfl⟩

/-- What the block is made of is the same; only the model's own `env` may differ. -/
def State.SameBlock (s t : State) : Prop := ∃ e : Env, t = { s with env := e } ∧ e.resets = s.env.resets

theorem portAccess_env (a : Access) (s : State) : (portAccess a s).1.env = s.env := by
  rcases portAccess_cases a s with
    ⟨_, _, h⟩ | ⟨_, _, h⟩ | ⟨_, h⟩ | ⟨_, _, r, _, _, _, h⟩ | ⟨_, _, _, _, _, h⟩ | ⟨_, _, _, _, _, h⟩ <;>
    rw [h]
  · cases r <;> rfl
  · rfl
  · rfl

/-- An access does not depend on what the host will do later. -/
theorem portAccess_withScript (a : Access) (s : State) (ops : List HostOp) :
    portAccess a (s.withScript ops) = ((portAccess a s).1.withScript ops, (portAccess a s).2) := by
  unfold portAccess
  rw [State.withScript_status]
  cases s.status.busy with
  | true => simp only [if_true]; unfold busyAccess; split <;> rfl
  | false =>
    simp only [Bool.false_eq_true, if_false]
    unfold idleAccess
    cases a with
    | writeReg i v =>
      dsimp only
      cases regOfIndex i with
      | none => rfl
      | some r => cases r <;> rfl
    | readReg i => dsimp only; cases regOfIndex i with
      | none => rfl
      | some r => cases r <;> rfl
    | _ => simp only [State.withScript_cfg]; split <;> rename_i h <;> simp only [h, if_true, if_false] <;> rfl

/-- Everything a turn of the host can do to the block. -/
theorem hostTurn_cases (s : State) :
    (s.env.script = [] ∧ hostTurn s = s) ∨
    (∃ a rest, s.env.script = .access a :: rest ∧ State.SameBlock (portAccess a s).1 (hostTurn s)) ∨
    (∃ rest, s.env.script = .wait :: rest ∧ State.SameBlock s (hostTurn s)) := by
  unfold hostTurn
  split
  · exact .inl ⟨‹_›, rfl⟩
  · rename_i a rest hs
    refine .inr (.inl ⟨a, rest, hs, ?_⟩)
    simp only [hostAccess, portAccess_withScript]
    exact ⟨_, rfl, rfl⟩
  · rename_i rest hs
    refine .inr (.inr ⟨rest, hs, ?_⟩)
    have : (portAccess (.readReg 1) s).1 = s := by
      unfold portAccess busyAccess idleAccess; split <;> rfl
    simp only [this]
    split <;> exact ⟨_, rfl, rfl⟩

end Sys2Proof.Machine
end

