-- ==== Sys2Proof/Tests/Slice0.lean ====
section
/-! SUPPORT. Tests, with expected results from spec/95_test_vectors.md or worked out from the spec's
rules, and for every statement with hypotheses a state and operands that meet them. -/

namespace Sys2Proof.Tests

open Sys2Proof Sys2Proof.Machine Sys2Proof.Spec

/-! ### States to test on -/

/-- The state an execution ends in. -/
def after (i : Instr) (s : State) : State :=
  match exec i s with
  | .next t => t
  | .fault _ => s
  | .refused _ => s

/-- A string over the alphabet, written as digits. -/
def chars (ds : List Nat) : List Byte := ds.map fun d => if d = 1 then 0x31 else 0x30

/-- Entries 0, 1, … of a store. -/
def store (start : Nat) : List Byte → Memory
  | [] => []
  | b :: bs => (start, b) :: store (start + 1) bs

/-- A block of configuration `c` after reset, then a string in PBUF, its length in LEN, and SIZE. -/
def withString (c : Config) (str : List Byte) (size : Word) : State :=
  { State.reset with cfg := c, pbuf := store 0 str, len := BitVec.ofNat 32 str.length, size := size }

/-- A block after reset and a LOADIMG. -/
def withImage (w h : Word) (pixels : List Byte) : State :=
  { State.reset with width := w, height := h, rmem := store 0 pixels }

/-- A command has just been started. -/
def started (i : Instr) (s : State) : State := s.startCommand (encode i)

/-- The rows of the grid as the host reads them. -/
def gridWords (s : State) : List Word := (List.finRange 7).map fun y => s.readReg (.grid y)

/-- The first `n` characters of PBUF. -/
def string (s : State) (n : Nat) : List Byte := (List.range n).map s.readPbuf

/-- The smallest legal block: one pixel a cell. -/
def tiny : Config := { Config.standard with k := 1, pmax := 25, rmax := 100 }

/-- Two pixels a cell. -/
def double : Config := { Config.standard with k := 2, pmax := 255, rmax := 196 }

/-- Three pixels a cell. -/
def triple : Config := { Config.standard with k := 3, rmax := 441 }

def e1 : List Byte := chars [0, 0, 1, 0, 1, 0, 0, 0, 1]

def e9 : List Byte :=
  chars ([1, 1, 0, 0, 0] ++ [0, 0, 0, 0, 0] ++ [0, 0, 0, 0, 0] ++ [0, 0, 0, 0, 0] ++ [0, 0, 0, 1, 1])

/-- Vector D1. -/
def d1 : State :=
  withImage 5 5 ([10, 200, 30, 250, 90] ++ [220, 130, 128, 127, 255] ++ [0, 255, 60, 180, 255] ++
    [240, 129, 200, 5, 255] ++ [50, 255, 255, 255, 255])

/-- Vector D5. -/
def d5 : State :=
  withImage 7 7 ([0, 255, 0, 255, 0, 255, 0] ++ [255, 0, 255, 0, 255, 0, 255] ++
    [0, 255, 0, 255, 0, 255, 255] ++ [255, 0, 255, 0, 255, 0, 255] ++ [0, 255, 0, 255, 0, 255, 255] ++
    [255, 0, 255, 0, 255, 0, 255] ++ [0, 255, 255, 255, 255, 255, 255])

/-- One row of `n` pixels, white. -/
def whiteRow (n : Nat) : State := withImage (BitVec.ofNat 32 n) 1 (List.replicate n 255)

/-! ### Decoding (spec/30_encoding.md R91) -/

theorem test_decode_geom : decode 0b00000000000000000000000000000001#32 = .ok .geom := by decide
theorem test_decode_encode : decode 0b00000000000000000000000000000010#32 = .ok .encode := by decide
theorem test_decode_decode : decode 0b00000000000000000000000000000011#32 = .ok .decode := by decide
theorem test_decode_parapp : decode 0b00000000000000000000000000000100#32 = .ok .parapp := by decide
theorem test_decode_parchk : decode 0b00000000000000000000000000000101#32 = .ok .parchk := by decide

/-- Z1 to Z4. -/
theorem test_decode_rejects :
    decode 0x00000000 = .error .illegalCommand ∧ decode 0x00000006 = .error .illegalCommand ∧
    decode 0x80000002 = .error .illegalCommand ∧ decode 0x00000102 = .error .illegalCommand := by decide

theorem test_table_words :
    decodeTableWord 32 3 = some .decode ∧ decodeTableWord 8 3 = some .decode ∧
    decodeTableWord 32 (2 ^ 32 + 3) = none ∧ decodeTableWord 64 3 = none := by decide

/-! ### Well-formedness: one ill-formed term for each check -/

theorem test_standard_legal : Config.standard.Legal := by decide
theorem test_k_zero : ¬{ Config.standard with k := 0 }.Legal := by decide
theorem test_k_wide : ¬{ Config.standard with k := 65536, rmax := 2 ^ 40 }.Legal := by decide
theorem test_t_zero : ¬{ Config.standard with t := 0 }.Legal := by decide
theorem test_t_wide : ¬{ Config.standard with t := 256 }.Legal := by decide
theorem test_black_not_below : ¬{ Config.standard with black := 128 }.Legal := by decide
theorem test_white_below : ¬{ Config.standard with white := 127 }.Legal := by decide
theorem test_equal_chars : ¬{ Config.standard with c1 := 0x30 }.Legal := by decide
theorem test_pmax_small : ¬{ Config.standard with pmax := 24 }.Legal := by decide
theorem test_pmax_wide : ¬{ Config.standard with pmax := 256 }.Legal := by decide
theorem test_rmax_small : ¬{ Config.standard with rmax := 122499 }.Legal := by decide
theorem test_rmax_wide : ¬{ Config.standard with rmax := 2 ^ 32 }.Legal := by decide
theorem test_loadstr_wide_char : (Stmt.loadstr [Char.ofNat 256]).wf = false := by decide
theorem test_loadimg_short : (Stmt.loadimg 2 2 [0, 0, 0]).wf = false := by decide

/-! ### The commands -/

/-- G2. -/
theorem test_geom_large :
    (after .geom (started .geom { State.reset with size := 7 })).geomout.toWord = 0x00061907 ∧
    (after .geom (started .geom { State.reset with size := 7 })).status.toWord = 0x02 := by decide

/-- G3. -/
theorem test_geom_bad_size :
    (after .geom (started .geom { State.reset with size := 6 })).geomout.toWord = 0 ∧
    (after .geom (started .geom { State.reset with size := 6 })).status.toWord = 0x26 := by decide

/-- E1. -/
theorem test_encode_e1 :
    gridWords (after .encode (started .encode (withString Config.standard e1 5))) =
      [0x6A, 0x77, 0x7A, 0x77, 0x7E, 0x7F, 0x7F] ∧
    (after .encode (started .encode (withString Config.standard e1 5))).width = 250 ∧
    (after .encode (started .encode (withString Config.standard e1 5))).status.toWord = 0x02 := by
  decide +kernel

/-- Pixels of E1. -/
theorem test_encode_pixels :
    let cells := encodedCell Config.standard .small (withString Config.standard e1 5).readPbuf
    [0, 49, 50, 99, 12500, 18925, 18949, 18950, 31325, 31375, 50000, 62499].map
        (rasterPixel Config.standard .small cells) =
      [0, 0, 255, 255, 255, 0, 0, 255, 255, 0, 0, 255] := by decide +kernel

/-- D1, the worked example of spec/42_decoder.md R155. -/
theorem test_decode_d1 :
    string (after .decode (started .decode d1)) 9 = e1 ∧
    gridWords (after .decode (started .decode d1)) = [0x6A, 0x77, 0x7A, 0x77, 0x7E, 0x7F, 0x7F] ∧
    (after .decode (started .decode d1)).len = 9 ∧
    (after .decode (started .decode d1)).geomout.toWord = 0x00040905 := by decide +kernel

/-- I5. -/
theorem test_parapp_odd :
    string (after .parapp (withString Config.standard (chars [1, 0, 1, 0, 1, 0, 0]) 5)) 8 =
      chars [1, 0, 1, 0, 1, 0, 0, 1] := by decide +kernel

/-- I12: a character that is neither '0' nor '1' counts as not '1'. -/
theorem test_parapp_stranger :
    string (after .parapp (withString Config.standard [0x31, 0x58] 5)) 3 = [0x31, 0x58, 0x31] := by
  decide +kernel

/-- K8, K17: the error does not write PAROK. -/
theorem test_parchk_even :
    (after .parchk (withString Config.standard (chars [1, 0, 1, 0, 1, 0, 0, 1]) 5)).status.toWord = 0x0A ∧
    (after .parchk { after .parchk (withString Config.standard (chars [1, 0, 1, 0, 1, 0, 0, 1]) 5) with
      len := 33 }).status.toWord = 0x7E := by decide +kernel

/-- K9, K12, K1. -/
theorem test_parchk_fails :
    (after .parchk (withString Config.standard (chars [1, 0, 1, 0, 1, 0, 0, 0]) 5)).status.toWord = 0x02 ∧
    (after .parchk (withString Config.standard (chars [1, 0, 1, 0, 1, 0, 0] ++ [0x58]) 5)).status.toWord =
      0x02 ∧
    (after .parchk State.reset).status.toWord = 0x02 := by decide +kernel

/-! ### Error codes: X1, X2, X4, X12, D10, D21, Z1, and reset -/

theorem test_encode_errors :
    (after .encode (started .encode (withString Config.standard [0x31, 0x30, 0x32] 5))).status.toWord = 0x16 ∧
    (after .encode (started .encode (withString Config.standard e1 6))).status.toWord = 0x26 ∧
    (after .encode (started .encode (withString Config.standard e1 7))).status.toWord = 0x36 ∧
    (after .encode (started .encode { withString Config.standard e1 5 with len := 33 })).status.toWord =
      0x76 := by decide +kernel

theorem test_decode_errors :
    (after .decode (started .decode (withImage 5 5 (List.replicate 25 255)))).status.toWord = 0x46 ∧
    (after .decode (started .decode (withImage 65536 65536 []))).status.toWord = 0x56 := by decide +kernel

theorem test_illegal_command :
    (match engineStep (State.reset.startCommand 0) with
     | .next t => t.status.toWord
     | _ => 0) = 0x66 := by decide

/-- A reset while a command executes (spec/70_reset_and_hazards.md R215). -/
theorem test_reset_registers :
    gridWords (started .encode d1).resetBlock = List.replicate 7 0x7F ∧
    (started .encode d1).resetBlock.size = 5 ∧ (started .encode d1).resetBlock.status.toWord = 0 := by
  decide

/-! ### The host port: A5, A6, A10, A14, A16, A17, A19, A21, A22 -/

theorem test_param_words :
    portAccess (.readReg 7) State.reset = (State.reset, ⟨.ok, some (.word 0x20800032)⟩) ∧
    portAccess (.readReg 8) State.reset = (State.reset, ⟨.ok, some (.word 0x00040000)⟩) := by decide

theorem test_port_writes :
    portAccess (.writeReg 1 0xFFFFFFFF) State.reset = (State.reset, ⟨.ok, none⟩) ∧
    portAccess (.writeReg 2 0xFFFFFFFF) State.reset =
      ({ State.reset with size := 0xFFFFFFFF }, ⟨.ok, none⟩) := by decide

theorem test_port_unmapped :
    portAccess (.readReg 16) State.reset = (State.reset, ⟨.err, none⟩) ∧
    portAccess (.writePbuf 32 0x30) State.reset = (State.reset, ⟨.err, none⟩) ∧
    portAccess (.writeRmem 262144 0) State.reset = (State.reset, ⟨.err, none⟩) := by decide

theorem test_port_busy :
    (portAccess (.readReg 1) (started .geom State.reset)).2 = ⟨.ok, some (.word 0x00000001)⟩ ∧
    (portAccess (.readReg 2) (started .geom State.reset)).2 = ⟨.err, none⟩ ∧
    (after .geom (portAccess (.readReg 2) (started .geom State.reset)).1).status.toWord = 0x102 := by
  decide

/-- A word placed for the step runs as the next event. -/
theorem test_step_runs_word :
    (match step (State.reset.withFetchWord 32 1) with
     | .next t => t.geomout.toWord
     | _ => 0) = 0x00040905 := by decide

/-- The characters of LOADSTR. -/
theorem test_loadstr_expands :
    expandStmt { Config.standard with c0 := 0x41, c1 := 0x42 } (.loadstr ['1', '0', '2']) =
      [.access (.writePbuf 0 0x42), .access (.writePbuf 1 0x41), .access (.writePbuf 2 0x32),
       .access (.writeReg 3 3)] := by decide

/-! ### Witnesses: the hypotheses of each statement, met together -/

theorem ex_exec (i : Instr) (s : State) : ∃ t, exec i s = .next t := by
  cases i with
  | geom => simp only [exec, execGeom]; split <;> exact ⟨_, rfl⟩
  | encode => simp only [exec, execEncode]; split <;> exact ⟨_, rfl⟩
  | decode => simp only [exec, execDecode]; split <;> exact ⟨_, rfl⟩
  | parapp => simp only [exec, execParapp]; split <;> exact ⟨_, rfl⟩
  | parchk => simp only [exec, execParchk]; split <;> exact ⟨_, rfl⟩

/-- A block with the encodable string of vector E1, and one with that of E9. -/
abbrev small (c : Config) : State := withString c e1 5
abbrev large (c : Config) : State := withString c e9 7

theorem small_encodable : Encodable (small tiny) 5 where
  side := .inl rfl
  size := rfl
  len := rfl
  fits := by decide
  chars := by decide

theorem large_encodable : Encodable (large tiny) 7 where
  side := .inr rfl
  size := rfl
  len := rfl
  fits := by decide
  chars := by decide

theorem double_encodable : Encodable (small double) 5 where
  side := .inl rfl
  size := rfl
  len := rfl
  fits := by decide
  chars := by decide

theorem d1_decodable : Decodable d1 5 where
  side := .inl rfl
  width_pos := by decide
  height_pos := by decide
  fits := by decide
  count := by decide

theorem d5_decodable : Decodable d5 7 where
  side := .inr rfl
  width_pos := by decide
  height_pos := by decide
  fits := by decide
  count := by decide

theorem triple_encodable : Encodable (small triple) 5 where
  side := .inl rfl
  size := rfl
  len := rfl
  fits := by decide
  chars := by decide

theorem triple_encodable_large : Encodable (large triple) 7 where
  side := .inr rfl
  size := rfl
  len := rfl
  fits := by decide
  chars := by decide

/-- A block whose first command is executing meets the invariant. -/
theorem executing_inv : (started .geom State.reset).Inv where
  cfg_legal := by decide
  busy_clean := fun _ => ⟨rfl, rfl, rfl⟩
  err_iff_ecode := rfl
  ecode_of_cmd := by intro e h; cases h
  illegal_raises := by intro h; cases h
  no_command_yet := by intro h; cases h
  geomout_values := .inl rfl
  pbuf_wf := by decide
  pbuf_below := by decide
  rmem_wf := by decide
  rmem_below := by decide

theorem witness_CommandWordsDecode :
    (0x00000000 : Word).toNat = 0 ∧ 5 < (0x00000006 : Word).toNat ∧ 5 < (0xFFFFFFFF : Word).toNat := by
  decide

theorem witness_DecodeAndEncodeAgree :
    Instr.decode.wf = true ∧ decode 0x00000003 = .ok .decode := by decide

theorem witness_StepRunsDecodedCommand :
    (∀ ts ∈ [[], [Turn.engine]], let s := (State.reset.startCommand 5)
      let u : State := { s with env := { s.env with turns := ts } }
      u.status.busy = true ∧ nextTurn u = .engine ∧ decode u.cmd = .ok .parchk) ∧
    decodeTableWord 32 5 = some .parchk := by decide

theorem witness_IllegalWordRaisesIllegalCommand :
    State.reset.status.busy = false ∧ (0 : Word).toNat = 0 ∧ 5 < (0x80000002 : Word).toNat := by decide

theorem witness_IdleRegisterReadsServed : State.reset.status.busy = false := by decide

theorem witness_OperandRegisterWritesStore : d1.status.busy = false := by decide

theorem witness_StoresBehaveAsPlainMemory :
    State.reset.status.busy = false ∧ 0 < State.reset.cfg.pmax ∧ 31 < State.reset.cfg.pmax ∧
    262143 < State.reset.cfg.rmax := by decide

theorem witness_ReadOnlyWritesIgnored :
    State.reset.status.busy = false ∧ (6 ≤ 6 ∧ 6 ≤ 15) ∧ (6 ≤ 15 ∧ 15 ≤ 15) := by decide

theorem witness_UnmappedIndexAnswersErr :
    State.reset.status.busy = false ∧ 16 ≤ 16 ∧ State.reset.cfg.pmax ≤ 32 ∧
    State.reset.cfg.rmax ≤ 262144 := by decide

theorem witness_BusyAccessRejected :
    (started .geom State.reset).status.busy = true ∧ (started .geom State.reset).Inv ∧
    Access.readReg 2 ≠ .readReg 1 ∧ Access.writeReg 1 0 ≠ .readReg 1 ∧
    Access.readReg 16 ≠ .readReg 1 :=
  ⟨rfl, executing_inv, by decide, by decide, by decide⟩

theorem witness_CmdWriteStartsCommand : State.reset.status.busy = false := by decide

theorem witness_StatusWordFields : 9 ≤ 9 ∧ 9 ≤ 31 := by decide

theorem witness_ParameterWordFields :
    tiny.Legal ∧ double.Legal ∧
    { Config.standard with k := 9362, t := 255, pmax := 255, rmax := 2 ^ 32 - 1 }.Legal := by decide

theorem witness_GridRowBits : 6 < 7 ∧ 7 ≤ 7 := by decide

theorem witness_ResetEventLeavesResetValues :
    ∃ s : State, nextTurn s = .reset ∧ s.status.busy = true ∧ s.cfg = tiny :=
  ⟨{ started .encode (small tiny) with env := ⟨3, [], [.reset], none⟩ }, rfl, rfl, rfl⟩

theorem witness_StraightAfterReset : (small double).cfg.Legal ∧ d1.cfg.Legal := by decide

theorem witness_EveryStartedCommandCompletes :
    (State.reset.startCommand 6).status.busy = true ∧
    nextTurn (State.reset.startCommand 6) = .engine := by decide

/-- A raising command, with no access, a served one and a rejected one before the engine's step. -/
theorem witness_ErrorsArePrecise :
    d1.status.busy = false ∧
    ∀ c ∈ [([], false), ([Access.readReg 1], false), ([Access.readReg 1, .readReg 2], true)],
      ∃ t, engineStep (afterAccesses (d1.startCommand 2) c.1) = .next t ∧
        t.status.err = true ∧ t.status.ovr = c.2 := by
  refine ⟨rfl, fun c hc => ?_⟩
  simp only [List.mem_cons, List.not_mem_nil, or_false] at hc
  rcases hc with rfl | rfl | rfl <;> exact ⟨_, rfl, by decide, by decide⟩

theorem witness_GeometryFunctions : sizeClass? 7 = some .large ∧ sizeOfTransitions 4 = some .small := by
  decide

theorem witness_GeomComputesGeometry :
    State.reset.size.toNat = 5 ∧ d1.size.toNat = 5 ∧ (large tiny).size.toNat = 7 ∧
    ((6 : Word).toNat ≠ 5 ∧ (6 : Word).toNat ≠ 7) := by decide

/-- X13, X3, X1 and X5. -/
theorem witness_EncodeChecksInOrder :
    33 > Config.standard.pmax ∧
    (¬(3 > Config.standard.pmax) ∧ (6 ≠ 5 ∧ 6 ≠ 7)) ∧
    (∃ i, i < (withString Config.standard [0x31, 0x30, 0x32] 5).len.toNat ∧
      (withString Config.standard [0x31, 0x30, 0x32] 5).readPbuf i ≠ 0x30 ∧
      (withString Config.standard [0x31, 0x30, 0x32] 5).readPbuf i ≠ 0x31) ∧
    (∀ i, i < (withString Config.standard e9 5).len.toNat →
      ((withString Config.standard e9 5).readPbuf i = 0x30 ∨
        (withString Config.standard e9 5).readPbuf i = 0x31)) ∧
    (withString Config.standard e9 5).len.toNat ≠ (5 - 2) * (5 - 2) :=
  ⟨by decide, by decide, ⟨2, by decide⟩, by decide, by decide⟩

theorem witness_EncodePaintsTag :
    (small tiny).cfg.Legal ∧ Encodable (small tiny) 5 ∧ (large tiny).cfg.Legal ∧ Encodable (large tiny) 7 :=
  ⟨by decide, small_encodable, by decide, large_encodable⟩

theorem witness_EncodeBorderInvariant : (small double).cfg.Legal ∧ Encodable (small double) 5 :=
  ⟨by decide, double_encodable⟩

/-- One entry too many, one pixel of height 0, and a white row. -/
theorem witness_DecodeChecksInOrder :
    (262145 : Word).toNat * (1 : Word).toNat > Config.standard.rmax ∧ (0 : Word).toNat = 0 ∧
    rowTransitions (whiteRow 5) (whiteRow 5).width.toNat ≠ 4 ∧
    rowTransitions (whiteRow 5) (whiteRow 5).width.toNat ≠ 6 ∧
    ¬((whiteRow 5).width.toNat = 0 ∨ (whiteRow 5).height.toNat = 0 ∨
      (whiteRow 5).width.toNat * (whiteRow 5).height.toNat > (whiteRow 5).cfg.rmax) := by decide

theorem witness_DecodeReadsTag :
    d1.cfg.Legal ∧ Decodable d1 5 ∧ d5.cfg.Legal ∧ Decodable d5 7 :=
  ⟨by decide, d1_decodable, by decide, d5_decodable⟩

theorem witness_SampleCoordinates : (1 ≤ 1 ∧ 4 < 5) ∧ (1 ≤ 1 ∧ 6 < 7) ∧ 3 ≤ 4 := by decide

/-- D1 and the same image with every pixel made pure. -/
theorem witness_DecodeSeesOnlyClassesAtSamples :
    ∃ s' : State, Decodable d1 5 ∧ s'.cfg = d1.cfg ∧ s'.width = d1.width ∧ s'.height = d1.height ∧
      (∀ x, x < d1.width.toNat → (isBlack s' x ↔ isBlack d1 x)) ∧
      ∀ x y, x < 5 → y < 5 →
        (isBlack s' (rasterIndex d1.width.toNat (sampleCoord 5 d1.width.toNat x)
            (sampleCoord 5 d1.height.toNat y)) ↔
          isBlack d1 (rasterIndex d1.width.toNat (sampleCoord 5 d1.width.toNat x)
            (sampleCoord 5 d1.height.toNat y))) := by
  refine ⟨{ d1 with rmem := d1.rmem.map fun c => (c.1, if c.2.toNat < 128 then 0 else 255) },
    d1_decodable, rfl, rfl, rfl, by decide, fun x y hx hy => ?_⟩
  revert x y
  have : ∀ x, x < 5 → ∀ y, y < 5 →
      (isBlack { d1 with rmem := d1.rmem.map fun c => (c.1, if c.2.toNat < 128 then 0 else 255) }
          (rasterIndex d1.width.toNat (sampleCoord 5 d1.width.toNat x)
            (sampleCoord 5 d1.height.toNat y)) ↔
        isBlack d1 (rasterIndex d1.width.toNat (sampleCoord 5 d1.width.toNat x)
          (sampleCoord 5 d1.height.toNat y))) := by decide +kernel
  exact fun x y hx hy => this x hx y hy

/-- The raster of E1 with its last pixel of row 0 made white. -/
theorem witness_StrayEndPixelIsUnrecognized :
    ∃ s t u : State, s.cfg.Legal ∧ Encodable s 5 ∧ exec .encode s = .next t ∧
      u.cfg = t.cfg ∧ u.width = t.width ∧ u.height = t.height ∧
      (∀ x, x < 5 * s.cfg.k → x ≠ 5 * s.cfg.k - 1 → (isBlack u x ↔ isBlack t x)) ∧
      ¬(isBlack u (5 * s.cfg.k - 1) ↔ isBlack t (5 * s.cfg.k - 1)) :=
  ⟨small double, after .encode (small double), (after .encode (small double)).writeRmem 9 255,
    by decide, double_encodable, rfl, rfl, rfl, rfl, by decide +kernel, by decide +kernel⟩

/-- The middle pixel of the second run of row 0 made black, in a Small tag and in a Large one. -/
theorem witness_StrayInnerPixelChangesSize :
    ∀ (s : State) (n : Nat), (s = small triple ∧ n = 5) ∨ (s = large triple ∧ n = 7) →
      ∃ t u : State, s.cfg.Legal ∧ Encodable s n ∧ exec .encode s = .next t ∧
        u.cfg = t.cfg ∧ u.width = t.width ∧ u.height = t.height ∧ 0 < 4 ∧ 4 < n * s.cfg.k - 1 ∧
        (isBlack t (4 - 1) ↔ isBlack t 4) ∧ (isBlack t (4 + 1) ↔ isBlack t 4) ∧
        (∀ x, x < n * s.cfg.k → x ≠ 4 → (isBlack u x ↔ isBlack t x)) ∧ ¬(isBlack u 4 ↔ isBlack t 4) := by
  rintro s n (⟨rfl, rfl⟩ | ⟨rfl, rfl⟩)
  · exact ⟨after .encode (small triple), (after .encode (small triple)).writeRmem 4 0, by decide,
      triple_encodable, rfl, rfl, rfl, rfl, by decide, by decide, by decide +kernel,
      by decide +kernel, by decide +kernel, by decide +kernel⟩
  · exact ⟨after .encode (large triple), (after .encode (large triple)).writeRmem 4 0, by decide,
      triple_encodable_large, rfl, rfl, rfl, rfl, by decide, by decide, by decide +kernel,
      by decide +kernel, by decide +kernel, by decide +kernel⟩

/-- The sampled pixel of the last interior cell made white. -/
theorem witness_WrongSampleFlipsOneBit :
    ∃ s t u : State, s.cfg.Legal ∧ Encodable s 5 ∧ exec .encode s = .next t ∧
      u.cfg = t.cfg ∧ u.width = t.width ∧ u.height = t.height ∧
      ∀ a, a < 5 * s.cfg.k * (5 * s.cfg.k) →
        ((isBlack u a ↔ isBlack t a) ↔
          a ≠ ((1 + 2) * s.cfg.k + s.cfg.k / 2) * (5 * s.cfg.k) + ((1 + 2) * s.cfg.k + s.cfg.k / 2)) :=
  ⟨small double, after .encode (small double), (after .encode (small double)).writeRmem 77 255,
    by decide, double_encodable, rfl, rfl, rfl, rfl, by decide +kernel⟩

/-- The raster carried into another block, which holds another string. -/
theorem witness_DecodeInvertsEncode :
    ∃ s t u : State, s.cfg.Legal ∧ Encodable s 7 ∧ exec .encode s = .next t ∧ CarriesRasterOf u t ∧
      u.pbuf = [] ∧ u.status.busy = true :=
  ⟨large tiny, after .encode (large tiny),
    started .decode { after .encode (large tiny) with pbuf := [], len := 0 },
    by decide, large_encodable, rfl, ⟨rfl, rfl, rfl, fun _ _ => rfl⟩, rfl, rfl⟩

/-- Every pixel of the raster doubled. -/
theorem witness_CleanRescaleDecodes_up :
    ∃ s t u : State, s.cfg.Legal ∧ Encodable s 5 ∧ exec .encode s = .next t ∧ u.cfg = t.cfg ∧
      u.width.toNat = 10 ∧ u.height.toNat = 10 ∧ 10 * 10 ≤ s.cfg.rmax ∧ 10 = 2 * (5 * s.cfg.k) ∧
      ∀ x y, x < 10 → y < 10 →
        u.readRmem (y * 10 + x) = t.readRmem (y / 2 * (5 * s.cfg.k) + x / 2) := by
  refine ⟨small tiny, after .encode (small tiny),
    { after .encode (small tiny) with
      width := 10
      height := 10
      rmem := Memory.block (fun a => (after .encode (small tiny)).readRmem (a / 10 / 2 * 5 + a % 10 / 2)) 0 100 },
    by decide, small_encodable, rfl, rfl, rfl, rfl, by decide, rfl, fun x y hx hy => ?_⟩
  simp only [State.readRmem, Memory.get?_block]
  rw [if_pos (by omega), show (y * 10 + x) / 10 = y by omega, show (y * 10 + x) % 10 = x by omega]
  rfl

/-- Every second pixel of the raster kept. -/
theorem witness_CleanRescaleDecodes_down :
    ∃ s t u : State, s.cfg.Legal ∧ Encodable s 5 ∧ exec .encode s = .next t ∧ u.cfg = t.cfg ∧
      u.width.toNat = 5 ∧ u.height.toNat = 5 ∧ 5 * 5 ≤ s.cfg.rmax ∧ 2 * 5 = 5 * s.cfg.k ∧ 2 ∣ s.cfg.k ∧
      ∀ x y, x < 5 → y < 5 →
        u.readRmem (y * 5 + x) = t.readRmem (2 * y * (5 * s.cfg.k) + 2 * x) := by
  refine ⟨small double, after .encode (small double),
    { after .encode (small double) with
      width := 5
      height := 5
      rmem := Memory.block (fun a => (after .encode (small double)).readRmem (2 * (a / 5) * 10 + 2 * (a % 5))) 0 25 },
    by decide, double_encodable, rfl, rfl, rfl, rfl, by decide, rfl, by decide, fun x y hx hy => ?_⟩
  simp only [State.readRmem, Memory.get?_block]
  rw [if_pos (by omega), show (y * 5 + x) / 5 = y by omega, show (y * 5 + x) % 5 = x by omega]
  rfl

theorem witness_ParappAppendsParity :
    Config.standard.pmax ≤ (withString Config.standard (List.replicate 32 0x30) 5).len.toNat ∧
    (withString Config.standard (List.replicate 31 0x31) 5).len.toNat < Config.standard.pmax ∧
    State.reset.len.toNat < State.reset.cfg.pmax ∧ State.reset.cfg.Legal := by decide

/-- The clause on a second PARAPP. -/
theorem witness_ParappAppendsParity_twice :
    (after .parapp State.reset).len.toNat < State.reset.cfg.pmax := by decide

theorem witness_ParchkReportsParity :
    Config.standard.pmax < (33 : Word).toNat ∧
    (State.reset.len.toNat ≤ State.reset.cfg.pmax ∧ State.reset.len.toNat = 0) ∧
    ((32 : Word).toNat ≤ Config.standard.pmax ∧ (32 : Word).toNat ≠ 0) ∧
    ((1 : Word).toNat ≤ Config.standard.pmax ∧ (1 : Word).toNat ≠ 0) := by decide

/-- The clause on strings over the alphabet. -/
theorem witness_ParchkReportsParity_even :
    (small tiny).cfg.Legal ∧ (small tiny).len.toNat ≤ (small tiny).cfg.pmax ∧
    (small tiny).len.toNat ≠ 0 ∧ ∀ i, i < (small tiny).len.toNat →
      (small tiny).readPbuf i = (small tiny).cfg.c0 ∨ (small tiny).readPbuf i = (small tiny).cfg.c1 := by
  decide

/-- The string of E1 with its parity character, and the same with its first character flipped. -/
theorem witness_ParityDetectsOddFlips :
    ∃ s t u : State, s.cfg.Legal ∧ s.len.toNat < s.cfg.pmax ∧
      (∀ i, i < s.len.toNat → s.readPbuf i = s.cfg.c0 ∨ s.readPbuf i = s.cfg.c1) ∧
      exec .parapp s = .next t ∧ u.cfg = t.cfg ∧ u.len = t.len ∧
      (∀ i, i < t.len.toNat → u.readPbuf i = s.cfg.c0 ∨ u.readPbuf i = s.cfg.c1) ∧
      u.readPbuf 0 ≠ t.readPbuf 0 :=
  ⟨small tiny, after .parapp (small tiny), (after .parapp (small tiny)).writePbuf 0 0x31,
    by decide, by decide, by decide, rfl, rfl, rfl, by decide +kernel, by decide +kernel⟩

theorem witness_CommandsWriteOnlyTheirResults :
    (∀ i, ∃ t, exec i (small tiny) = .next t) ∧ encodeCheck (small tiny) = .ok .small ∧
    (small tiny).len.toNat < (small tiny).cfg.pmax ∧ decodeCheck d1 = .ok .small :=
  ⟨fun i => ex_exec i _, rfl, by decide, by decide +kernel⟩

theorem witness_StepKeepsInvariant :
    ∃ s t : State, s.Inv ∧ step s = .next t ∧ s.status.busy = true :=
  ⟨started .geom State.reset, after .geom (started .geom State.reset), executing_inv, rfl, rfl⟩

/-- A block in which `i` executes and the host is next with the operations `ops`. -/
def hostNext (i : Instr) (ops : List HostOp) : State :=
  { started i State.reset with env := ⟨0, ops, [.host, .engine], none⟩ }

theorem witness_OvrIsStickyAndSetByRejection :
    (∃ t, step (hostNext .geom [.access (.readReg 2)]) = .next t ∧ t.status.ovr = true ∧
      nextTurn t ≠ .reset ∧ ∃ u, step t = .next u) ∧
    (hostNext .geom [.access (.readReg 2)]).status.ovr = false ∧
    (hostNext .geom [.access (.readReg 1)]).status.ovr = false :=
  ⟨⟨_, rfl, rfl, by decide, _, rfl⟩, rfl, rfl⟩

/-- K2: PARCHK of the string "0" sets PAROK. -/
theorem witness_ParokChangedOnlyByParchk :
    ∃ s t : State, step s = .next t ∧ t.status.parok ≠ s.status.parok :=
  ⟨started .parchk (withString Config.standard [0x30] 5),
    after .parchk (started .parchk (withString Config.standard [0x30] 5)), rfl, by decide +kernel⟩

theorem witness_GridAndGeomoutWriters :
    ∃ s t : State, step s = .next t ∧ nextTurn s ≠ .reset ∧ t.grid ≠ s.grid ∧ t.geomout ≠ s.geomout :=
  ⟨started .encode (small tiny), after .encode (started .encode (small tiny)), rfl, by decide,
    by decide +kernel, by decide +kernel⟩

theorem witness_SizeAndParametersWriters :
    ∃ s t : State, step s = .next t ∧ t.size ≠ s.size :=
  ⟨{ State.reset with env := ⟨0, [.access (.writeReg 2 7)], [], none⟩ }, _, rfl, by decide⟩

theorem witness_AccessesCannotReachRunningCommand :
    (started .encode (small tiny)).status.busy = true := by decide

theorem witness_CommandAndWaitComplete :
    ∃ s : State, s.status.busy = false ∧ s.env.turns = [] ∧
      s.env.script = [.access (.writeReg 0 0xFFFFFFFF), .wait] :=
  ⟨{ State.reset with env := ⟨0, [.access (.writeReg 0 0xFFFFFFFF), .wait], [], none⟩ }, rfl, rfl, rfl⟩

theorem witness_BothOrdersOfHostAndEngine :
    ∀ ts ∈ [[Turn.host, .engine], [.engine, .host]],
      let s : State := { started .encode (small tiny) with
        env := ⟨0, [.access (.writePbuf 24 0x31)], ts, none⟩ }
      s.status.busy = true ∧ s.env.script = [.access (.writePbuf 24 0x31)] ∧ 24 < s.cfg.pmax ∧
      s.env.turns = ts := by decide

theorem witness_LoadstrLoadsString :
    State.reset.cfg.Legal ∧ State.reset.status.busy = false ∧
    (List.replicate 32 '1').length ≤ State.reset.cfg.pmax ∧ ([] : List Char).length ≤ 32 := by decide

theorem witness_LoadimgLoadsRaster :
    State.reset.status.busy = false ∧ (Stmt.loadimg 2 1 [0, 255]).wf = true ∧
    [(0 : Byte), 255].length ≤ State.reset.cfg.rmax ∧ (Stmt.loadimg 0 7 []).wf = true := by decide

end Sys2Proof.Tests
end

section
/-! PROOFS. Family 00_scope: every step keeps the invariant (O41). One lemma says for each kind of update what
it asks of the state to keep `State.Inv`; an event is then a composition of updates. -/

namespace Sys2Proof.Machine

variable {s t : State}

/-! ### Updates and the invariant -/

/-- The invariant says nothing of the operand registers, nor of the model's own `Env`. -/
theorem State.Inv.withOperands (h : s.Inv) (size len width height : Word) (env : Env) :
    { s with size := size, len := len, width := width, height := height, env := env }.Inv :=
  { h with }

theorem State.Inv.of_sameBlock (h : s.Inv) (hb : State.SameBlock s t) : t.Inv := by
  obtain ⟨e, rfl, -⟩ := hb
  exact h.withOperands ..

theorem State.Inv.popTurn (h : s.Inv) : s.popTurn.Inv := h.withOperands ..

theorem State.Inv.withPbuf (h : s.Inv) {m : Memory} (hwf : Memory.wf m)
    (hm : Memory.below s.cfg.pmax m) : { s with pbuf := m }.Inv :=
  { h with pbuf_wf := hwf, pbuf_below := hm }

theorem State.Inv.withRmem (h : s.Inv) {m : Memory} (hwf : Memory.wf m)
    (hm : Memory.below s.cfg.rmax m) : { s with rmem := m }.Inv :=
  { h with rmem_wf := hwf, rmem_below := hm }

theorem State.Inv.writePbuf (h : s.Inv) {i : Nat} (hi : i < s.cfg.pmax) (c : Byte) :
    (s.writePbuf i c).Inv :=
  h.withPbuf (Memory.set_wf h.pbuf_wf i c) (Memory.set_below h.pbuf_below hi c)

theorem State.Inv.writeRmem (h : s.Inv) {a : Nat} (ha : a < s.cfg.rmax) (p : Byte) :
    (s.writeRmem a p).Inv :=
  h.withRmem (Memory.set_wf h.rmem_wf a p) (Memory.set_below h.rmem_below ha p)

/-- PAROK and OVR are free while a command executes; while the block waits for its first command they
must be 0 (spec/10_state.md R29), so the lemma asks for BUSY. -/
theorem State.Inv.withFlags (h : s.Inv) (hb : s.status.busy = true) (parok ovr : Bool) :
    { s with status := { s.status with parok := parok, ovr := ovr } }.Inv :=
  { h with no_command_yet := fun hidle => absurd hidle (by simp [hb]) }

/-- While a command executes, the grid store may hold anything, and GEOMOUT the geometry of any size class. -/
theorem State.Inv.withGeometry (h : s.Inv) (hb : s.status.busy = true) (c : SizeClass) (g : Grid) :
    { s with geomout := geomOutOf c, grid := g }.Inv :=
  { h with
    no_command_yet := fun hidle => absurd hidle (by simp [hb])
    geomout_values := by cases c <;> simp }

/-! ### The life of a command, and reset -/

theorem State.Inv.startCommand (h : s.Inv) (v : Word) : (s.startCommand v).Inv :=
  { h with
    busy_clean := by simp
    err_iff_ecode := by simp
    ecode_of_cmd := by simp
    illegal_raises := by simp
    no_command_yet := by simp }

/-- A command that ends without an error leaves ERR and ECODE as its start cleared them. -/
theorem State.Inv.complete (h : s.Inv) (hb : s.status.busy = true) {i : Instr}
    (hd : decode s.cmd = .ok i) : s.complete.Inv := by
  obtain ⟨-, herr, hecode⟩ := h.busy_clean hb
  exact { h with
    busy_clean := by simp
    err_iff_ecode := by simp [herr, hecode]
    ecode_of_cmd := by simp [hecode]
    illegal_raises := by simp [hd]
    no_command_yet := by simp }

/-- An illegal word may end with no other error than IllegalCommand (spec/60_exceptions.md R201). -/
theorem mayRaise_of_illegal {w : Word} {e : ErrorKind} (hd : decode w = .error .illegalCommand) :
    mayRaise w e = true ↔ e = .illegalCommand := by
  simp [mayRaise, hd]

theorem State.Inv.raise (h : s.Inv) {e : ErrorKind} (he : mayRaise s.cmd e = true) : (s.raise e).Inv :=
  { h with
    busy_clean := by simp
    err_iff_ecode := by simp
    ecode_of_cmd := by simp [he]
    illegal_raises := fun _ hd => congrArg some ((mayRaise_of_illegal hd).1 he)
    no_command_yet := by simp }

/-- A reset gives every field its value of `State.reset`, and keeps the parameters. -/
theorem State.Inv.resetBlock (h : s.Inv) : s.resetBlock.Inv where
  cfg_legal := h.cfg_legal
  busy_clean := by simp [State.reset, Status.zero]
  err_iff_ecode := rfl
  ecode_of_cmd := by simp [State.reset, Status.zero]
  illegal_raises := by simp [State.reset, Status.zero]
  no_command_yet := fun _ _ => ⟨rfl, rfl, rfl, rfl⟩
  geomout_values := .inl rfl
  pbuf_wf := Memory.wf_nil
  pbuf_below := by simp [State.reset]
  rmem_wf := Memory.wf_nil
  rmem_below := by simp [State.reset]

/-! ### What a command's results need of the parameters -/

/-- The largest raster, of `(7*K)²` pixels, fits in RMEM (spec/00_scope.md R7). -/
theorem rasterSide_sq_le_rmax {cfg : Config} (h : cfg.Legal) (c : SizeClass) :
    rasterSide cfg c * rasterSide cfg c ≤ cfg.rmax := by
  obtain ⟨-, -, -, -, -, hr, -⟩ := h
  have hside : rasterSide cfg c ≤ 7 * cfg.k :=
    Nat.mul_le_mul_right _ (by cases c <;> decide)
  calc rasterSide cfg c * rasterSide cfg c
      ≤ 7 * cfg.k * (7 * cfg.k) := Nat.mul_le_mul hside hside
    _ = 49 * cfg.k * cfg.k := by ring
    _ ≤ cfg.rmax := hr

/-- The longest payload, of 25 characters, fits in PBUF (R7). -/
theorem payloadCapacity_le_pmax {cfg : Config} (h : cfg.Legal) (c : SizeClass) :
    payloadCapacity c ≤ cfg.pmax := by
  obtain ⟨-, -, -, -, ⟨hp, -⟩, -⟩ := h
  have hcap : payloadCapacity c ≤ 25 := by cases c <;> decide
  omega

theorem State.Inv.encodeCommit (h : s.Inv) (hb : s.status.busy = true) (c : SizeClass) :
    (encodeCommit s c).Inv :=
  ((h.withGeometry hb c _).withRmem (Memory.writePrefix_wf h.rmem_wf _ _)
    (Memory.writePrefix_below h.rmem_below (rasterSide_sq_le_rmax h.cfg_legal c) _)).withOperands ..

theorem State.Inv.decodeCommit (h : s.Inv) (hb : s.status.busy = true) (c : SizeClass) :
    (decodeCommit s c).Inv :=
  ((h.withGeometry hb c _).withPbuf (Memory.writePrefix_wf h.pbuf_wf _ _)
    (Memory.writePrefix_below h.pbuf_below (payloadCapacity_le_pmax h.cfg_legal c) _)).withOperands ..

/-! ### The errors of the checks -/

theorem encodeCheck_eq_error {e : ErrorKind} (h : encodeCheck s = .error e) :
    e = .bufferOverflow ∨ e = .invalidSizeClass ∨ e = .invalidCharset ∨ e = .lengthMismatch := by
  unfold encodeCheck at h
  split at h
  · cases h; simp
  · cases hc : sizeClass? s.size with
    | none => rw [hc] at h; cases h; simp
    | some c =>
      simp only [hc] at h
      split at h
      · cases h; simp
      · split at h <;> cases h; simp

theorem decodeCheck_eq_error {e : ErrorKind} (h : decodeCheck s = .error e) :
    e = .imageLoadFailure ∨ e = .unrecognizedSize := by
  unfold decodeCheck at h
  split at h
  · cases h; simp
  · split at h <;> cases h; simp

/-! ### The events -/

/-- The command that CMD holds runs to its end. -/
theorem State.Inv.exec (h : s.Inv) (hb : s.status.busy = true) {i : Instr} (hd : decode s.cmd = .ok i)
    (ht : exec i s = .next t) : t.Inv := by
  cases i with
  | geom =>
    obtain ⟨-, rfl⟩ | ⟨c, -, rfl⟩ := execGeom_cases ht
    · exact h.raise (by simp [mayRaise, hd])
    · exact (h.withGeometry hb c _).complete hb hd
  | encode =>
    obtain ⟨e, he, rfl⟩ | ⟨c, -, rfl⟩ := execEncode_cases ht
    · exact h.raise (by simpa [mayRaise, hd, or_assoc] using encodeCheck_eq_error he)
    · exact (h.encodeCommit hb c).complete hb hd
  | decode =>
    obtain ⟨e, he, rfl⟩ | ⟨c, -, rfl⟩ := execDecode_cases ht
    · exact h.raise (by simpa [mayRaise, hd] using decodeCheck_eq_error he)
    · exact (h.decodeCommit hb c).complete hb hd
  | parapp =>
    obtain ⟨-, rfl⟩ | ⟨hlen, rfl⟩ := execParapp_cases ht
    · exact h.raise (by simp [mayRaise, hd])
    · exact ((h.writePbuf hlen _).withOperands ..).complete hb hd
  | parchk =>
    obtain ⟨-, rfl⟩ | ⟨-, rfl⟩ := execParchk_cases ht
    · exact h.raise (by simp [mayRaise, hd])
    · exact (h.withFlags hb _ _).complete hb hd

theorem State.Inv.engineStep (h : s.Inv) (hb : s.status.busy = true) (ht : engineStep s = .next t) :
    t.Inv := by
  unfold Machine.engineStep at ht
  split at ht
  next i hd => exact h.exec hb hd ht
  next hd =>
    cases ht
    exact h.raise ((mayRaise_of_illegal hd).2 rfl)

theorem State.Inv.writeReg (h : s.Inv) (r : Reg) (v : Word) : (s.writeReg r v).Inv := by
  cases r with
  | cmd => exact h.startCommand v
  | size | len | width | height => exact h.withOperands ..
  | status | geomout | param0 | param1 | grid _ => exact h

theorem State.Inv.portAccess (h : s.Inv) (a : Access) : (portAccess a s).1.Inv := by
  obtain ⟨-, -, hs⟩ | ⟨hb, -, hs⟩ | ⟨-, hs⟩ | ⟨-, i, r, v, -, -, hs⟩ | ⟨-, i, c, -, hi, hs⟩ |
    ⟨-, i, p, -, hi, hs⟩ := portAccess_cases a s <;> rw [hs]
  · exact h
  · exact h.withFlags hb _ _
  · exact h
  · exact h.writeReg r v
  · exact h.writePbuf hi c
  · exact h.writeRmem hi p

theorem State.Inv.hostTurn (h : s.Inv) : (hostTurn s).Inv := by
  obtain ⟨-, hs⟩ | ⟨a, -, -, hs⟩ | ⟨-, -, hs⟩ := hostTurn_cases s
  · rwa [hs]
  · exact (h.portAccess a).of_sameBlock hs
  · exact h.of_sameBlock hs

end Sys2Proof.Machine

namespace Sys2Proof.Proofs

open Sys2Proof.Machine

/-- Settles O41: whichever event comes next, it keeps the invariant. -/
theorem stepKeepsInvariant : Obligations.StepKeepsInvariant := by
  intro s t h hstep
  obtain ⟨-, rfl⟩ | ⟨-, rfl⟩ | ⟨-, -, rfl⟩ | ⟨-, hb, hstep⟩ := step_cases hstep
  · exact h.popTurn.resetBlock
  · exact h.popTurn.hostTurn
  · exact h.popTurn
  · exact h.popTurn.engineStep hb hstep

end Sys2Proof.Proofs
end

section
/-! PROOFS. Family 10_state: who writes the registers and the grid store (O42 to O45), what a host reads of the
registers (O5, O12 to O15), and the reset state (O40). What the engine's step and a turn of the host can do is said
once for each; the claims about writers follow for every step. -/

namespace Sys2Proof.Machine

variable {s t : State}

/-! ### The engine's step -/

/-- What the engine's step makes of a state: an error, or the commit of the command that CMD holds. -/
inductive EngineEffect (s : State) : State → Prop where
  | raise (e : ErrorKind) : EngineEffect s (s.raise e)
  | geom (hd : decode s.cmd = .ok .geom) (c : SizeClass) :
      EngineEffect s { s with geomout := geomOutOf c }.complete
  | encode (hd : decode s.cmd = .ok .encode) (c : SizeClass) : EngineEffect s (encodeCommit s c).complete
  | decode (hd : decode s.cmd = .ok .decode) (c : SizeClass) : EngineEffect s (decodeCommit s c).complete
  | parapp (hd : decode s.cmd = .ok .parapp) (i : Nat) (c : Byte) (n : Word) :
      EngineEffect s { s.writePbuf i c with len := n }.complete
  | parchk (hd : decode s.cmd = .ok .parchk) (hlen : s.len.toNat ≤ s.cfg.pmax) (b : Bool) :
      EngineEffect s { s with status := s.status.setParok b }.complete

theorem engineStep_effect (h : engineStep s = .next t) : EngineEffect s t := by
  unfold engineStep at h
  split at h
  next i hd =>
    cases i with
    | geom =>
      obtain ⟨-, rfl⟩ | ⟨c, -, rfl⟩ := execGeom_cases h
      · exact .raise _
      · exact .geom hd c
    | encode =>
      obtain ⟨e, -, rfl⟩ | ⟨c, -, rfl⟩ := execEncode_cases h
      · exact .raise e
      · exact .encode hd c
    | decode =>
      obtain ⟨e, -, rfl⟩ | ⟨c, -, rfl⟩ := execDecode_cases h
      · exact .raise e
      · exact .decode hd c
    | parapp =>
      obtain ⟨-, rfl⟩ | ⟨-, rfl⟩ := execParapp_cases h
      · exact .raise _
      · exact .parapp hd ..
    | parchk =>
      obtain ⟨-, rfl⟩ | ⟨hlen, rfl⟩ := execParchk_cases h
      · exact .raise _
      · exact .parchk hd hlen _
  next =>
    cases h
    exact .raise _

/-- No command reaches the parameters, SIZE or OVR (spec/10_state.md R20, R22, R35). -/
theorem EngineEffect.frame (h : EngineEffect s t) :
    t.cfg = s.cfg ∧ t.size = s.size ∧ t.status.ovr = s.status.ovr := by
  cases h <;> simp

/-- PAROK is written only by a PARCHK whose string fits (R31). -/
theorem EngineEffect.parok (h : EngineEffect s t) (hp : t.status.parok ≠ s.status.parok) :
    Sys2Proof.decode s.cmd = .ok .parchk ∧ s.len.toNat ≤ s.cfg.pmax := by
  cases h with
  | parchk hd hlen => exact ⟨hd, hlen⟩
  | raise | geom | encode | decode | parapp => simp at hp

/-- The grid store is written only by an ENCODE or a DECODE that completes (R38). -/
theorem EngineEffect.grid (h : EngineEffect s t) (hg : t.grid ≠ s.grid) :
    t.status.ecode = s.status.ecode ∧
      (Sys2Proof.decode s.cmd = .ok .encode ∨ Sys2Proof.decode s.cmd = .ok .decode) := by
  cases h with
  | encode hd => exact ⟨rfl, .inl hd⟩
  | decode hd => exact ⟨rfl, .inr hd⟩
  | raise | geom | parapp | parchk => simp at hg

/-- GEOMOUT is written only by a GEOM, ENCODE or DECODE that completes (R36). -/
theorem EngineEffect.geomout (h : EngineEffect s t) (hg : t.geomout ≠ s.geomout) :
    t.status.ecode = s.status.ecode ∧ (Sys2Proof.decode s.cmd = .ok .geom ∨
      Sys2Proof.decode s.cmd = .ok .encode ∨ Sys2Proof.decode s.cmd = .ok .decode) := by
  cases h with
  | geom hd => exact ⟨rfl, .inl hd⟩
  | encode hd => exact ⟨rfl, .inr (.inl hd)⟩
  | decode hd => exact ⟨rfl, .inr (.inr hd)⟩
  | raise | parapp | parchk => simp at hg

/-- The state with another value of OVR. -/
def State.withOvr (s : State) (o : Bool) : State := { s with status := { s.status with ovr := o } }

/-- OVR is no operand of any command: a command run with another OVR does the same with that OVR (R35). -/
theorem exec_withOvr {i : Instr} (h : exec i s = .next t) (o : Bool) :
    exec i (s.withOvr o) = .next (t.withOvr o) := by
  cases i with
  | geom =>
    change execGeom (s.withOvr o) = _
    obtain ⟨hc, rfl⟩ | ⟨c, hc, rfl⟩ := execGeom_cases h <;>
      rw [execGeom, show sizeClass? (s.withOvr o).size = _ from hc] <;> rfl
  | encode =>
    change execEncode (s.withOvr o) = _
    obtain ⟨e, hc, rfl⟩ | ⟨c, hc, rfl⟩ := execEncode_cases h <;>
      rw [execEncode, show encodeCheck (s.withOvr o) = _ from hc] <;> rfl
  | decode =>
    change execDecode (s.withOvr o) = _
    obtain ⟨e, hc, rfl⟩ | ⟨c, hc, rfl⟩ := execDecode_cases h <;>
      rw [execDecode, show decodeCheck (s.withOvr o) = _ from hc] <;> rfl
  | parapp =>
    obtain ⟨hc, rfl⟩ | ⟨hc, rfl⟩ := execParapp_cases h
    · exact if_pos hc
    · exact if_neg (Nat.not_le.2 hc)
  | parchk =>
    obtain ⟨hc, rfl⟩ | ⟨hc, rfl⟩ := execParchk_cases h
    · exact if_pos hc
    · exact if_neg (Nat.not_lt.2 hc)

/-! ### A turn of the host -/

/-- What no access and no turn of the host changes: the parameters, PAROK, GEOMOUT and the grid store
(spec/10_state.md R20, R31, R36, R38). -/
structure State.HostFrame (s t : State) : Prop where
  cfg : t.cfg = s.cfg
  parok : t.status.parok = s.status.parok
  geomout : t.geomout = s.geomout
  grid : t.grid = s.grid

theorem State.HostFrame.writeReg (s : State) (r : Reg) (v : Word) : s.HostFrame (s.writeReg r v) := by
  cases r <;> exact ⟨rfl, rfl, rfl, rfl⟩

theorem State.HostFrame.portAccess (a : Access) (s : State) : s.HostFrame (portAccess a s).1 := by
  obtain ⟨-, -, hs⟩ | ⟨-, -, hs⟩ | ⟨-, hs⟩ | ⟨-, i, r, v, -, -, hs⟩ | ⟨-, i, c, -, -, hs⟩ |
    ⟨-, i, p, -, -, hs⟩ := portAccess_cases a s <;> rw [hs]
  on_goal 4 => exact .writeReg s r v
  all_goals exact ⟨rfl, rfl, rfl, rfl⟩

theorem State.HostFrame.hostTurn (s : State) : s.HostFrame (hostTurn s) := by
  obtain ⟨-, hs⟩ | ⟨a, -, -, e, hs, -⟩ | ⟨-, -, e, hs, -⟩ := hostTurn_cases s <;> rw [hs]
  · exact ⟨rfl, rfl, rfl, rfl⟩
  · exact { State.HostFrame.portAccess a s with }
  · exact ⟨rfl, rfl, rfl, rfl⟩

theorem writeReg_size (s : State) (r : Reg) (v : Word) :
    (s.writeReg r v).size = if r = .size then v else s.size := by
  cases r <;> rfl

@[simp] theorem writeReg_ovr (s : State) (r : Reg) (v : Word) :
    (s.writeReg r v).status.ovr = s.status.ovr := by
  cases r <;> rfl

/-- An access changes SIZE only as the served write of the new value to register 2 (R22). -/
theorem portAccess_size {a : Access} (h : (portAccess a s).1.size ≠ s.size) :
    s.status.busy = false ∧ a = .writeReg 2 (portAccess a s).1.size := by
  obtain ⟨-, -, hs⟩ | ⟨-, -, hs⟩ | ⟨-, hs⟩ | ⟨hb, i, r, v, rfl, hr, hs⟩ | ⟨-, i, c, -, -, hs⟩ |
    ⟨-, i, p, -, -, hs⟩ := portAccess_cases a s <;> rw [hs] at h ⊢
  on_goal 4 =>
    have hsize : r = .size := by
      by_contra hne
      exact h (by rw [writeReg_size, if_neg hne])
    subst hsize
    rw [← regOfIndex_eq_some hr]
    exact ⟨hb, rfl⟩
  all_goals exact absurd rfl h

theorem hostTurn_size (h : (hostTurn s).size ≠ s.size) :
    s.status.busy = false ∧ ∃ rest, s.env.script = .access (.writeReg 2 (hostTurn s).size) :: rest := by
  obtain ⟨-, hs⟩ | ⟨a, rest, hscript, e, hs, -⟩ | ⟨-, -, e, hs, -⟩ := hostTurn_cases s <;> rw [hs] at h ⊢
  · exact absurd rfl h
  · obtain ⟨hb, ha⟩ := portAccess_size h
    exact ⟨hb, rest, hscript.trans (by rw [← ha])⟩
  · exact absurd rfl h

/-- An access sets OVR exactly when it is rejected (spec/20_memory.md R64), and none clears it. -/
theorem portAccess_ovr (a : Access) (s : State) :
    (portAccess a s).1.status.ovr = true ↔
      s.status.ovr = true ∨ (s.status.busy = true ∧ a ≠ .readReg 1) := by
  obtain ⟨-, ha, hs⟩ | ⟨hb, ha, hs⟩ | ⟨hb, hs⟩ | ⟨hb, i, r, v, -, -, hs⟩ | ⟨hb, i, c, -, -, hs⟩ |
    ⟨hb, i, p, -, -, hs⟩ := portAccess_cases a s <;> rw [hs]
  · simp [ha]
  · simp [hb, ha]
  all_goals simp [hb]

/-- A read of STATUS, which is all a WAIT makes, is never rejected. -/
theorem hostTurn_ovr (s : State) :
    (hostTurn s).status.ovr = true ↔ s.status.ovr = true ∨
      (s.status.busy = true ∧ ∃ a rest, s.env.script = .access a :: rest ∧ a ≠ .readReg 1) := by
  obtain ⟨hscript, hs⟩ | ⟨a, rest, hscript, e, hs, -⟩ | ⟨rest, hscript, e, hs, -⟩ := hostTurn_cases s <;>
    rw [hs]
  · simp [hscript]
  · simpa [hscript] using portAccess_ovr a s
  · simp [hscript]

/-! ### Every step -/

theorem step_eq_resetBlock (h : step s = .next t) (hn : nextTurn s = .reset) :
    t = s.popTurn.resetBlock := by
  rw [step, hn] at h
  cases h
  rfl

/-- OVR after any event but reset (spec/10_state.md R35). -/
theorem step_ovr (h : step s = .next t) (hn : nextTurn s ≠ .reset) :
    t.status.ovr = true ↔ s.status.ovr = true ∨ (s.status.busy = true ∧ nextTurn s = .host ∧
      ∃ a rest, s.env.script = .access a :: rest ∧ a ≠ .readReg 1) := by
  obtain ⟨hr, -⟩ | ⟨hh, rfl⟩ | ⟨he, -, rfl⟩ | ⟨he, -, hstep⟩ := step_cases h
  · exact absurd hr hn
  · simpa [hh] using hostTurn_ovr s.popTurn
  · simp [he]
  · obtain ⟨-, -, hovr⟩ := (engineStep_effect hstep).frame
    simp [hovr, he]

/-- What the host cannot change is changed by reset or by the engine's step of a running command. -/
theorem step_hostFrame (h : step s = .next t) :
    nextTurn s = .reset ∨ s.HostFrame t ∨
      (nextTurn s = .engine ∧ s.status.busy = true ∧ EngineEffect s.popTurn t) := by
  obtain ⟨hr, -⟩ | ⟨-, rfl⟩ | ⟨-, -, rfl⟩ | ⟨he, hb, hstep⟩ := step_cases h
  · exact .inl hr
  · exact .inr (.inl { State.HostFrame.hostTurn s.popTurn with })
  · exact .inr (.inl ⟨rfl, rfl, rfl, rfl⟩)
  · exact .inr (.inr ⟨he, hb, engineStep_effect hstep⟩)

/-- No event changes the parameters (R20). -/
theorem step_cfg (h : step s = .next t) : t.cfg = s.cfg := by
  obtain hr | hframe | ⟨-, -, heffect⟩ := step_hostFrame h
  · rw [step_eq_resetBlock h hr]; rfl
  · exact hframe.cfg
  · obtain ⟨hcfg, -, -⟩ := heffect.frame
    exact hcfg

/-! ### The words of the registers -/

/-- A read of a register while the block is idle (spec/20_memory.md R61). -/
theorem portAccess_readReg_idle (hb : s.status.busy = false) (r : Reg) :
    portAccess (.readReg (regIndex r)) s = (s, .data (.word (s.readReg r))) := by
  simp [portAccess, hb, idleAccess]

theorem getLsbD_eq_of_toNat {x : Word} {i : Nat} {b : Bool} (h : x.toNat / 2 ^ i % 2 = b.toNat) :
    x.getLsbD i = b := by
  rw [BitVec.getLsbD, Nat.testBit_eq_decide_div_mod_eq, h]
  cases b <;> rfl

theorem toNat_extractLsb'_eq_div_mod (x : Word) (lo w : Nat) :
    (x.extractLsb' lo w).toNat = x.toNat / 2 ^ lo % 2 ^ w := by
  rw [BitVec.extractLsb'_toNat, Nat.shiftRight_eq_div_pow]

theorem ErrorKind.code_lt (e : ErrorKind) : e.code < 8 := by cases e <;> decide

theorem Status.ecodeNat_lt (st : Status) : st.ecodeNat < 8 := by
  unfold Status.ecodeNat
  split
  · decide
  · exact ErrorKind.code_lt _

/-- Every field of STATUS fits its place in the word (spec/10_state.md R27). -/
theorem Status.toNat_toWord_fields (st : Status) :
    st.toWord.toNat < 2 ^ 9 ∧ st.toWord.toNat / 2 ^ 0 % 2 = st.busy.toNat ∧
    st.toWord.toNat / 2 ^ 1 % 2 = st.done.toNat ∧ st.toWord.toNat / 2 ^ 2 % 2 = st.err.toNat ∧
    st.toWord.toNat / 2 ^ 3 % 2 = st.parok.toNat ∧ st.toWord.toNat / 2 ^ 4 % 2 ^ 4 = st.ecodeNat ∧
    st.toWord.toNat / 2 ^ 8 % 2 = st.ovr.toNat := by
  have hbusy := st.busy.toNat_le
  have hdone := st.done.toNat_le
  have herr := st.err.toNat_le
  have hparok := st.parok.toNat_le
  have hecode := st.ecodeNat_lt
  have hovr := st.ovr.toNat_le
  rw [Status.toWord, BitVec.toNat_ofNat]
  refine ⟨?_, ?_, ?_, ?_, ?_, ?_, ?_⟩ <;> omega

theorem GeomOut.toNat_toWord (g : GeomOut) :
    g.toWord.toNat = g.n.toNat + g.cap.toNat * 2 ^ 8 + g.trans.toNat * 2 ^ 16 := by
  have hn := g.n.isLt
  have hcap := g.cap.isLt
  have htrans := g.trans.isLt
  rw [GeomOut.toWord, BitVec.toNat_ofNat]
  omega

/-- The bounds of spec/00_scope.md R7 on K, T and PMAX are the widths of their fields. -/
theorem toNat_param0 {c : Config} (h : c.Legal) :
    (param0 c).toNat = c.k + c.t * 2 ^ 16 + c.pmax * 2 ^ 24 := by
  obtain ⟨⟨-, hk⟩, ⟨-, ht⟩, -, -, ⟨-, hp⟩, -⟩ := h
  rw [param0, BitVec.toNat_ofNat]
  omega

theorem toNat_param1 {c : Config} (h : c.Legal) : (param1 c).toNat = c.rmax := by
  obtain ⟨-, -, -, -, -, -, hr⟩ := h
  rw [param1, BitVec.toNat_ofNat]
  omega

/-- Bit `x` of GRIDy is the cell in column `x` (spec/10_state.md R37). -/
theorem rowWord_getLsbD (row : Vector Cell 7) (x : Nat) :
    (rowWord row).getLsbD x = if h : x < 7 then row[x].bit else false := by
  rw [rowWord, BitVec.getLsbD_setWidth, BitVec.getLsbD_ofFnLE]
  by_cases hx : x < 7
  · simp [hx, show x < 32 by omega]
  · simp [hx]

theorem Cell.bit_eq_true {c : Cell} : c.bit = true ↔ c = .white := by cases c <;> decide

end Sys2Proof.Machine

namespace Sys2Proof.Proofs

open Sys2Proof.Machine

/-- Settles O42: `step_ovr` for the events, `exec_withOvr` for the commands. -/
theorem ovrIsStickyAndSetByRejection : Obligations.OvrIsStickyAndSetByRejection := by
  refine ⟨fun s t h hn hovr => (step_ovr h hn).2 (.inl hovr), fun s t h hovr => ?_,
    fun i s t o h => exec_withOvr h o⟩
  by_cases hn : nextTurn s = .reset
  · simp [step_eq_resetBlock h hn, hn, State.reset, Status.zero]
  · simpa [hovr] using step_ovr h hn

/-- Settles O43: the host cannot reach PAROK (`step_hostFrame`), and of the commands only PARCHK does. -/
theorem parokChangedOnlyByParchk : Obligations.ParokChangedOnlyByParchk := by
  intro s t h hp
  obtain hr | hframe | ⟨he, hb, heffect⟩ := step_hostFrame h
  · exact .inl hr
  · exact absurd hframe.parok hp
  · exact .inr ⟨he, hb, heffect.parok hp⟩

/-- Settles O44: the host can reach neither (`step_hostFrame`), and `EngineEffect` says which commands do. -/
theorem gridAndGeomoutWriters : Obligations.GridAndGeomoutWriters := by
  intro s t h hn
  obtain hr | hframe | ⟨he, hb, heffect⟩ := step_hostFrame h
  · exact absurd hr hn
  · exact ⟨fun hg => absurd hframe.grid hg, fun hg => absurd hframe.geomout hg⟩
  · exact ⟨fun hg => ⟨he, hb, heffect.grid hg⟩, fun hg => ⟨he, hb, heffect.geomout hg⟩⟩

/-- Settles O45: the host's accesses are the one way to SIZE, and nothing reaches the parameters. -/
theorem sizeAndParametersWriters : Obligations.SizeAndParametersWriters := by
  refine fun s t h => ⟨step_cfg h, fun hsize => ?_⟩
  obtain ⟨hr, -⟩ | ⟨hh, rfl⟩ | ⟨-, -, rfl⟩ | ⟨-, -, hstep⟩ := step_cases h
  · exact .inl hr
  · exact .inr ⟨hh, hostTurn_size hsize⟩
  · exact absurd rfl hsize
  · obtain ⟨-, hkept, -⟩ := (engineStep_effect hstep).frame
    exact absurd hkept hsize

/-- Settles O5: one read law for all 16 registers. -/
theorem idleRegisterReadsServed : Obligations.IdleRegisterReadsServed := by
  intro s hb
  have hread := portAccess_readReg_idle hb
  exact ⟨hread .cmd, hread .status, hread .size, hread .len, hread .width, hread .height,
    hread .geomout, hread .param0, hread .param1, fun y => hread (.grid y)⟩

/-- Settles O12: each field is a digit of the word's number. -/
theorem statusWordFields : Obligations.StatusWordFields := by
  intro st
  obtain ⟨hword, hbusy, hdone, herr, hparok, hecode, hovr⟩ := st.toNat_toWord_fields
  refine ⟨getLsbD_eq_of_toNat hbusy, getLsbD_eq_of_toNat hdone, getLsbD_eq_of_toNat herr,
    getLsbD_eq_of_toNat hparok, getLsbD_eq_of_toNat hovr, fun j hj => ?_, BitVec.eq_of_toNat_eq ?_⟩
  · exact Nat.testBit_lt_two_pow (hword.trans_le (Nat.pow_le_pow_right (by decide) hj))
  · rw [toNat_extractLsb'_eq_div_mod, hecode, Status.ecodeNat]
    cases st.ecode with
    | none => rfl
    | some e => cases e <;> rfl

/-- Settles O13: each field is a digit of the word's number, wide enough for a legal parameter. -/
theorem parameterWordFields : Obligations.ParameterWordFields := by
  intro c h
  have hparam0 := toNat_param0 h
  have hparam1 := toNat_param1 h
  obtain ⟨⟨-, hk⟩, ⟨-, ht⟩, -, -, ⟨-, hp⟩, -⟩ := h
  simp only [toNat_extractLsb'_eq_div_mod, hparam0]
  refine ⟨?_, ?_, ?_, hparam1⟩ <;> omega

/-- Settles O14: each field is a digit of the word's number. -/
theorem geomoutWordFields : Obligations.GeomoutWordFields := by
  intro g
  have hn := g.n.isLt
  have hcap := g.cap.isLt
  have htrans := g.trans.isLt
  simp only [← BitVec.toNat_inj, toNat_extractLsb'_eq_div_mod, g.toNat_toWord,
    show (0 : BitVec 8).toNat = 0 from rfl]
  omega

/-- Settles O15: `rowWord_getLsbD`, with row `y` of the grid store. -/
theorem gridRowBits : Obligations.GridRowBits := by
  refine fun s y x => ⟨fun hx => ?_, fun hx => ?_⟩ <;> rw [State.readReg, rowWord_getLsbD]
  · rw [dif_pos hx, Cell.bit_eq_true, Grid.cell, dif_pos ⟨hx, y.isLt⟩]; rfl
  · rw [dif_neg (by omega)]

/-- Settles O40: every field of the reset state is a constant. -/
theorem resetMeetsInvariant : Obligations.ResetMeetsInvariant where
  cfg_legal := by decide
  busy_clean := nofun
  err_iff_ecode := rfl
  ecode_of_cmd := nofun
  illegal_raises := nofun
  no_command_yet := fun _ _ => ⟨rfl, rfl, rfl, rfl⟩
  geomout_values := .inl rfl
  pbuf_wf := Memory.wf_nil
  pbuf_below := nofun
  rmem_wf := Memory.wf_nil
  rmem_below := nofun

end Sys2Proof.Proofs
end

section
/-! PROOFS. Family 20_memory: what the host port does while the block is idle (O6 to O9) and while a command
executes (O10, O46), and the two orders of a host write and the engine's step (O48). A rejected access reaches OVR
alone, and OVR is no operand of the engine's step; so no access reaches a running command. -/

namespace Sys2Proof.Machine

variable {s t : State}

/-! ### Registers -/

theorem exists_regIndex_eq {i : Nat} (hi : i < 16) : ∃ r, regIndex r = i := by
  cases hr : regOfIndex i with
  | none => exact absurd (regOfIndex_eq_none.1 hr) (Nat.not_le.2 hi)
  | some r => exact ⟨r, regOfIndex_eq_some hr⟩

/-- The registers that a write ignores are STATUS and the numbers from GEOMOUT on (spec/20_memory.md R62). -/
theorem writeReg_readOnly {r : Reg} (h : regIndex r = 1 ∨ 6 ≤ regIndex r) (s : State) (v : Word) :
    s.writeReg r v = s := by
  cases r with
  | cmd | size | len | width | height => simp [regIndex] at h
  | status | geomout | param0 | param1 | grid _ => rfl

/-! ### Accesses while no command is executing -/

theorem portAccess_idle (hb : s.status.busy = false) (a : Access) : portAccess a s = idleAccess a s := by
  rw [portAccess, hb]
  rfl

theorem portAccess_writeReg_idle (hb : s.status.busy = false) (r : Reg) (v : Word) :
    portAccess (.writeReg (regIndex r) v) s = (s.writeReg r v, .written) := by
  simp [portAccess_idle hb, idleAccess]

theorem portAccess_readPbuf_idle (hb : s.status.busy = false) {i : Nat} (hi : i < s.cfg.pmax) :
    portAccess (.readPbuf i) s = (s, .data (.byte (s.readPbuf i))) :=
  (portAccess_idle hb _).trans (if_pos hi)

theorem portAccess_writePbuf_idle (hb : s.status.busy = false) {i : Nat} (hi : i < s.cfg.pmax) (c : Byte) :
    portAccess (.writePbuf i c) s = (s.writePbuf i c, .written) :=
  (portAccess_idle hb _).trans (if_pos hi)

theorem portAccess_readRmem_idle (hb : s.status.busy = false) {a : Nat} (ha : a < s.cfg.rmax) :
    portAccess (.readRmem a) s = (s, .data (.byte (s.readRmem a))) :=
  (portAccess_idle hb _).trans (if_pos ha)

theorem portAccess_writeRmem_idle (hb : s.status.busy = false) {a : Nat} (ha : a < s.cfg.rmax) (p : Byte) :
    portAccess (.writeRmem a p) s = (s.writeRmem a p, .written) :=
  (portAccess_idle hb _).trans (if_pos ha)

/-! ### Accesses while a command executes -/

theorem portAccess_busy_status (hb : s.status.busy = true) :
    portAccess (.readReg 1) s = (s, .data (.word s.status.toWord)) := by
  rw [portAccess, hb]
  rfl

theorem portAccess_busy_rejected (hb : s.status.busy = true) {a : Access} (ha : a ≠ .readReg 1) :
    portAccess a s = (s.withOvr true, .err) := by
  rw [portAccess, hb]
  exact if_neg ha

/-- While a command executes, accesses add up in OVR and reach nothing else (spec/20_memory.md R64, R74). -/
theorem afterAccesses_busy (as : List Access) (hb : s.status.busy = true) :
    Spec.afterAccesses s as = s.withOvr (s.status.ovr || as.any fun a => a ≠ .readReg 1) := by
  induction as generalizing s with
  | nil => simp [Spec.afterAccesses, State.withOvr]
  | cons a as ih =>
    change Spec.afterAccesses (portAccess a s).1 as = _
    by_cases ha : a = .readReg 1
    · subst ha
      simp [portAccess_busy_status hb, ih hb]
    · rw [portAccess_busy_rejected hb ha, ih (s := s.withOvr true) hb]
      simp [State.withOvr, ha]

/-! ### The engine's step -/

theorem engineStep_of_ok {i : Instr} (h : decode s.cmd = .ok i) : engineStep s = exec i s := by
  rw [engineStep, h]

theorem engineStep_of_error {r : DecodeReject} (h : decode s.cmd = .error r) :
    engineStep s = .next (s.raise .illegalCommand) := by
  rw [engineStep, h]

theorem exec_eq_next (i : Instr) (s : State) : ∃ t, exec i s = .next t := by
  cases i with
  | geom => rw [exec, execGeom]; split <;> exact ⟨_, rfl⟩
  | encode => rw [exec, execEncode]; split <;> exact ⟨_, rfl⟩
  | decode => rw [exec, execDecode]; split <;> exact ⟨_, rfl⟩
  | parapp => rw [exec, execParapp]; split <;> exact ⟨_, rfl⟩
  | parchk => rw [exec, execParchk]; split <;> exact ⟨_, rfl⟩

/-- Every word in CMD gets the block to a next state (spec/70_reset_and_hazards.md R226). -/
theorem engineStep_eq_next (s : State) : ∃ t, engineStep s = .next t := by
  cases hd : decode s.cmd with
  | ok i => rw [engineStep_of_ok hd]; exact exec_eq_next i s
  | error r => exact ⟨_, engineStep_of_error hd⟩

/-- `exec_withOvr` for whatever word CMD holds. -/
theorem engineStep_withOvr (h : engineStep s = .next t) (o : Bool) :
    engineStep (s.withOvr o) = .next (t.withOvr o) := by
  cases hd : decode s.cmd with
  | ok i =>
    rw [engineStep_of_ok hd] at h
    rw [engineStep_of_ok (s := s.withOvr o) hd]
    exact exec_withOvr h o
  | error r =>
    rw [engineStep_of_error hd] at h
    cases h
    exact engineStep_of_error (s := s.withOvr o) hd

/-- The engine's step ends its command, and what the host and the order of turns hold is not the engine's. -/
theorem EngineEffect.busy_env (h : EngineEffect s t) : t.status.busy = false ∧ t.env = s.env := by
  cases h <;> exact ⟨rfl, rfl⟩

/-! ### The events in order -/

theorem nextTurn_of_turns {e : Turn} {ts : List Turn} (h : s.env.turns = e :: ts) : nextTurn s = e := by
  rw [nextTurn, h]

theorem step_host (h : nextTurn s = .host) : step s = .next (hostTurn s.popTurn) := by
  rw [step, h]
  rfl

theorem step_engine (h : nextTurn s = .engine) (hb : s.status.busy = true) :
    step s = engineStep s.popTurn := by
  rw [step, h]
  exact if_pos hb

/-- A turn of the host that finds an access next (spec/30_encoding.md R99). -/
theorem step_access {a : Access} {rest : List HostOp} {r : Reply} (h : nextTurn s = .host)
    (hscript : s.env.script = .access a :: rest) (ha : portAccess a s.popTurn = (t, r)) :
    step s = .next ((t.withScript rest).withReply r) := by
  rw [step_host h, hostTurn, show s.popTurn.env.script = _ from hscript]
  simp only [hostAccess, portAccess_withScript, ha]

end Sys2Proof.Machine

namespace Sys2Proof.Proofs

open Sys2Proof.Machine

/-- Settles O46: the accesses reach OVR alone (`afterAccesses_busy`), which is no operand of the engine's step
(`engineStep_withOvr`). -/
theorem accessesCannotReachRunningCommand : Obligations.AccessesCannotReachRunningCommand := by
  intro s as hb ovr
  have hacc := afterAccesses_busy as hb
  obtain ⟨t, ht⟩ := engineStep_eq_next s
  refine ⟨hacc, t, ht, ?_⟩
  rw [hacc]
  exact engineStep_withOvr ht ovr

/-- Settles O6: one write law for all registers. -/
theorem operandRegisterWritesStore : Obligations.OperandRegisterWritesStore := by
  intro s v hb
  have hwrite := fun r => portAccess_writeReg_idle hb r v
  exact ⟨hwrite .size, hwrite .len, hwrite .width, hwrite .height⟩

/-- Settles O7: the port's laws for a served write and a served read, and what the store reads after a write. -/
theorem storesBehaveAsPlainMemory : Obligations.StoresBehaveAsPlainMemory := by
  refine fun s i b hb => ⟨fun hi => ?_, fun hi => ?_⟩
  · refine ⟨_, portAccess_writePbuf_idle hb hi b, rfl, fun j hj => ?_⟩
    rw [← s.readPbuf_writePbuf]
    exact portAccess_readPbuf_idle (s := s.writePbuf i b) hb hj
  · refine ⟨_, portAccess_writeRmem_idle hb hi b, rfl, fun j hj => ?_⟩
    rw [← s.readRmem_writeRmem]
    exact portAccess_readRmem_idle (s := s.writeRmem i b) hb hj

/-- Settles O8: the write is served, and `writeReg_readOnly`. -/
theorem readOnlyWritesIgnored : Obligations.ReadOnlyWritesIgnored := by
  intro s i v hb hi
  obtain ⟨r, rfl⟩ := exists_regIndex_eq (i := i) (by omega)
  have hkept := writeReg_readOnly (hi.imp_right And.left) s v
  rw [portAccess_writeReg_idle hb, hkept]
  rfl

/-- Settles O9: outside the space no register has the number, and the bound of a store fails. -/
theorem unmappedIndexAnswersErr : Obligations.UnmappedIndexAnswersErr := by
  intro s i v b hb
  simp only [portAccess_idle hb]
  refine ⟨fun hi => ?_, fun hi => ?_, fun hi => ?_⟩
  · simp [idleAccess, regOfIndex_eq_none.2 hi, Reply.err]
  · exact ⟨if_neg (Nat.not_lt.2 hi), if_neg (Nat.not_lt.2 hi)⟩
  · exact ⟨if_neg (Nat.not_lt.2 hi), if_neg (Nat.not_lt.2 hi)⟩

/-- Settles O10: the two things a busy port does, and the invariant's clause on BUSY. -/
theorem busyAccessRejected : Obligations.BusyAccessRejected := by
  refine fun s a hb => ⟨fun h => h.busy_clean hb, ?_, portAccess_busy_rejected hb⟩
  rintro rfl
  exact portAccess_busy_status hb

/-- Settles O48: BUSY decides the write's fate. Before the engine's step it is set; the step clears it, and
leaves the script and the turns alone. -/
theorem bothOrdersOfHostAndEngine : Obligations.BothOrdersOfHostAndEngine := by
  refine fun s i c hb hscript hi => ⟨fun hturns => ?_, fun hturns => ?_⟩
  · have hstep := step_access (nextTurn_of_turns hturns) hscript
      (portAccess_busy_rejected (s := s.popTurn) hb nofun)
    generalize ht : ((s.popTurn.withOvr true).withScript []).withReply .err = t at hstep
    have htb : t.status.busy = true := ht ▸ hb
    have htn : nextTurn t = .engine :=
      nextTurn_of_turns (ts := []) (by simp [← ht, State.withOvr, hturns])
    obtain ⟨u, hu⟩ := engineStep_eq_next t.popTurn
    have heffect := engineStep_effect hu
    obtain ⟨-, henv⟩ := heffect.busy_env
    obtain ⟨-, -, hovr⟩ := heffect.frame
    refine ⟨t, u, hstep, (step_engine htn htb).trans hu, ht ▸ rfl, hovr.trans (ht ▸ rfl), ?_⟩
    rw [henv]
    subst ht
    exact hu
  · obtain ⟨t, ht⟩ := engineStep_eq_next s.popTurn
    have heffect := engineStep_effect ht
    obtain ⟨htb, henv⟩ := heffect.busy_env
    obtain ⟨hcfg, -, -⟩ := heffect.frame
    have htn : nextTurn t = .host := nextTurn_of_turns (ts := []) (by simp [henv, hturns])
    have hstep := step_access htn ((congrArg Env.script henv).trans hscript)
      (portAccess_writePbuf_idle (s := t.popTurn) htb (by simpa [hcfg] using hi) c)
    refine ⟨t, _, (step_engine (nextTurn_of_turns hturns) hb).trans ht, hstep, ht, rfl, ?_, rfl⟩
    exact (t.popTurn.readPbuf_writePbuf i i c).trans (if_pos rfl)

end Sys2Proof.Proofs
end

section
/-! PROOFS. Family 30_encoding: command words and what a step makes of them (O1 to O4, O11), the frame of every
command (O39), and host scripts: a CMD write with its WAIT (O47), LOADSTR (O49) and LOADIMG (O50). A script that
loads a store is one fold of single writes, `Memory.load`, whichever store it loads. -/

namespace Sys2Proof.Machine

variable {s t : State}

/-! ### Command words -/

theorem decode_encode (i : Instr) : decode (encode i) = .ok i := by
  cases i <;> rfl

theorem encode_of_decode {w : Word} {i : Instr} (h : decode w = .ok i) : encode i = w := by
  unfold decode at h
  split_ifs at h with hw hw hw hw hw <;> cases h <;> exact hw.symm

/-- Every command's word is one of the five of spec/30_encoding.md R91. -/
theorem wordInTable (i : Instr) : Laws.WordInTable.Statement i := by
  cases i with
  | geom => exact Laws.WordInTable.geom
  | encode => exact Laws.WordInTable.encode
  | decode => exact Laws.WordInTable.decode
  | parapp => exact Laws.WordInTable.parapp
  | parchk => exact Laws.WordInTable.parchk

/-- A word outside the table is illegal (R96). -/
theorem decode_of_not_in_table {w : Word} (h : w.toNat = 0 ∨ 5 < w.toNat) :
    decode w = .error .illegalCommand := by
  cases hd : decode w with
  | ok i =>
    obtain ⟨-, hlo, hhi⟩ := wordInTable i
    rw [encode_of_decode hd] at hlo hhi
    omega
  | error r => cases r; rfl

/-- A table word of 32 bits is the word of its command. -/
theorem encode_of_decodeTableWord {w : Nat} {i : Instr} (h : decodeTableWord 32 w = some i) :
    encode i = BitVec.ofNat 32 w := by
  unfold decodeTableWord at h
  split at h
  · split at h <;> cases h
    exact encode_of_decode ‹_›
  · cases h

/-- A state in which a command's word was placed runs that command next (R93; log 7). -/
theorem step_withCommand (s : State) (i : Instr) :
    step (s.withCommand (encode i)) = exec i (s.startCommand (encode i)) := by
  rw [State.withCommand, step_engine (nextTurn_withEngineNext rfl) (by simp), State.withEngineNext_popTurn]
  exact engineStep_of_ok (decode_encode i)

/-! ### What each command writes -/

/-- What command `i` makes of the state `s`: an error, or the results of its row in spec/30_encoding.md R94. Where
`EngineEffect` ties a command to the word in CMD, this keeps what the command's checks let through. -/
inductive CommandEffect (s : State) : Instr → State → Prop where
  | raise (i : Instr) (e : ErrorKind) : CommandEffect s i (s.raise e)
  | geom (c : SizeClass) : CommandEffect s .geom { s with geomout := geomOutOf c }.complete
  | encode {c : SizeClass} (hc : encodeCheck s = .ok c) : CommandEffect s .encode (encodeCommit s c).complete
  | decode {c : SizeClass} (hc : decodeCheck s = .ok c) : CommandEffect s .decode (decodeCommit s c).complete
  | parapp (hlen : s.len.toNat < s.cfg.pmax) (c : Byte) (n : Word) :
      CommandEffect s .parapp { s.writePbuf s.len.toNat c with len := n }.complete
  | parchk (b : Bool) : CommandEffect s .parchk { s with status := s.status.setParok b }.complete

theorem exec_effect {i : Instr} (h : exec i s = .next t) : CommandEffect s i t := by
  cases i with
  | geom =>
    obtain ⟨-, rfl⟩ | ⟨c, -, rfl⟩ := execGeom_cases h
    · exact .raise ..
    · exact .geom c
  | encode =>
    obtain ⟨e, -, rfl⟩ | ⟨c, hc, rfl⟩ := execEncode_cases h
    · exact .raise ..
    · exact .encode hc
  | decode =>
    obtain ⟨e, -, rfl⟩ | ⟨c, hc, rfl⟩ := execDecode_cases h
    · exact .raise ..
    · exact .decode hc
  | parapp =>
    obtain ⟨-, rfl⟩ | ⟨hlen, rfl⟩ := execParapp_cases h
    · exact .raise ..
    · exact .parapp hlen ..
  | parchk =>
    obtain ⟨-, rfl⟩ | ⟨-, rfl⟩ := execParchk_cases h
    · exact .raise ..
    · exact .parchk _

namespace CommandEffect

variable {i : Instr}

/-- What is no command's result (spec/10_state.md R20, R22, R35). -/
theorem frame (h : CommandEffect s i t) :
    t.cfg = s.cfg ∧ t.cmd = s.cmd ∧ t.size = s.size ∧ t.env = s.env ∧ t.status.ovr = s.status.ovr := by
  cases h <;> exact ⟨rfl, rfl, rfl, rfl, rfl⟩

theorem parok (h : CommandEffect s i t) (hi : i ≠ .parchk) : t.status.parok = s.status.parok := by
  cases h with
  | parchk => exact absurd rfl hi
  | raise | geom | encode | decode | parapp => rfl

theorem len (h : CommandEffect s i t) (hdecode : i ≠ .decode) (hparapp : i ≠ .parapp) : t.len = s.len := by
  cases h with
  | decode => exact absurd rfl hdecode
  | parapp => exact absurd rfl hparapp
  | raise | geom | encode | parchk => rfl

theorem dimensions (h : CommandEffect s i t) (hi : i ≠ .encode) :
    t.width = s.width ∧ t.height = s.height := by
  cases h with
  | encode => exact absurd rfl hi
  | raise | geom | decode | parapp | parchk => exact ⟨rfl, rfl⟩

theorem geomout (h : CommandEffect s i t) (hi : i = .parapp ∨ i = .parchk) : t.geomout = s.geomout := by
  cases h with
  | geom | encode | decode => simp at hi
  | raise | parapp | parchk => rfl

theorem grid (h : CommandEffect s i t) (hencode : i ≠ .encode) (hdecode : i ≠ .decode) :
    t.grid = s.grid := by
  cases h with
  | encode => exact absurd rfl hencode
  | decode => exact absurd rfl hdecode
  | raise | geom | parapp | parchk => rfl

/-- RMEM is written only by an ENCODE that completes, and only the raster (spec/41_encoder.md R127, R128). -/
theorem readRmem (h : CommandEffect s i t) {a : Nat} (ha : ∀ c, i = .encode → encodeCheck s = .ok c →
    rasterSide s.cfg c * rasterSide s.cfg c ≤ a) : t.readRmem a = s.readRmem a := by
  cases h with
  | encode hc =>
    have ha := Nat.not_lt.2 (ha _ rfl hc)
    simp [State.readRmem, Memory.get?_writePrefix, ha]
  | raise | geom | decode | parapp | parchk => rfl

/-- PBUF is written only by a PARAPP with room, at LEN, and by a DECODE that completes, below its payload's
length (spec/43_integrity.md R172, spec/42_decoder.md R150). -/
theorem readPbuf (h : CommandEffect s i t) {j : Nat}
    (hparapp : i = .parapp → s.len.toNat < s.cfg.pmax → j ≠ s.len.toNat)
    (hdecode : ∀ c, i = .decode → decodeCheck s = .ok c → payloadCapacity c ≤ j) :
    t.readPbuf j = s.readPbuf j := by
  cases h with
  | decode hc =>
    have hj := Nat.not_lt.2 (hdecode _ rfl hc)
    simp [State.readPbuf, Memory.get?_writePrefix, hj]
  | parapp hlen c => exact (s.readPbuf_writePbuf _ j c).trans (if_neg (hparapp rfl hlen))
  | raise | geom | encode | parchk => rfl

end CommandEffect

/-! ### Runs of a host script -/

theorem run_succ_of_step {M : Host.Core} {s t : M.State} (h : M.step s = .next t) (k : Nat) :
    M.run (k + 1) s = M.run k t := by
  rw [Host.Core.run, h]

/-- With no order of turns listed, an idle block waits for its host (log 4). -/
theorem nextTurn_host (h : s.env.turns = []) (hb : s.status.busy = false) : nextTurn s = .host := by
  rw [nextTurn, h, hb]
  rfl

/-- With no order of turns listed, a command that executes comes next (log 4). -/
theorem nextTurn_engine (h : s.env.turns = []) (hb : s.status.busy = true) : nextTurn s = .engine := by
  rw [nextTurn, h, hb]
  rfl

/-- The engine's step ends the command in CMD and reports that it is done (spec/60_exceptions.md R189, R190). -/
theorem EngineEffect.cmd_done (h : EngineEffect s t) : t.cmd = s.cmd ∧ t.status.done = true := by
  cases h <;> exact ⟨rfl, rfl⟩

theorem Status.showsDone_toWord (st : Status) : (Reply.data (.word st.toWord)).showsDone = st.done := by
  obtain ⟨-, -, hdone, -⟩ := st.toNat_toWord_fields
  exact getLsbD_eq_of_toNat hdone

/-- A turn of the host that finds a WAIT next and reads that the command is done (spec/30_encoding.md R100). -/
theorem step_wait_done {rest : List HostOp} (h : nextTurn s = .host) (hscript : s.env.script = .wait :: rest)
    (hb : s.status.busy = false) (hdone : s.status.done = true) :
    step s = .next ((s.popTurn.withScript rest).withReply (.data (.word s.status.toWord))) := by
  have hread : portAccess (.readReg 1) s.popTurn = (s.popTurn, .data (.word s.status.toWord)) :=
    portAccess_readReg_idle (s := s.popTurn) hb .status
  rw [step_host h, hostTurn, show s.popTurn.env.script = _ from hscript]
  simp only [hread, Status.showsDone_toWord, hdone, if_true]

/-! ### Loading a store -/

/-- Store the bytes of a list at consecutive indices from `start` on, one after the other. -/
def Memory.load (m : Memory) : (start : Nat) → List Byte → Memory
  | _, [] => m
  | start, b :: bs => Memory.load (Memory.set m start b) (start + 1) bs

theorem Memory.get?_load (m : Memory) (start : Nat) (bs : List Byte) (i : Nat) :
    Memory.get? (Memory.load m start bs) i =
      (if start ≤ i then bs[i - start]? else none).or (Memory.get? m i) := by
  induction bs generalizing m start with
  | nil => simp [Memory.load]
  | cons b bs ih =>
    rw [Memory.load, ih, Memory.get?_set]
    obtain hi | rfl | hi := Nat.lt_trichotomy i start
    · rw [if_neg (by omega), if_neg (by omega), if_neg (by omega)]
    · simp
    · obtain ⟨j, rfl⟩ := Nat.exists_eq_add_of_lt hi
      rw [if_pos (by omega), if_neg (by omega), if_pos (by omega),
        show start + j + 1 - start = j + 1 by omega, show start + j + 1 - (start + 1) = j by omega]
      rfl

theorem State.readPbuf_load (s : State) (bs : List Byte) (i : Nat) :
    { s with pbuf := Memory.load s.pbuf 0 bs }.readPbuf i = bs[i]?.getD (s.readPbuf i) := by
  simp only [State.readPbuf, Memory.get?_load, Nat.zero_le, if_true, Nat.sub_zero]
  cases bs[i]? <;> rfl

theorem State.readRmem_load (s : State) (bs : List Byte) (a : Nat) :
    { s with rmem := Memory.load s.rmem 0 bs }.readRmem a = bs[a]?.getD (s.readRmem a) := by
  simp only [State.readRmem, Memory.get?_load, Nat.zero_le, if_true, Nat.sub_zero]
  cases bs[a]? <;> rfl

theorem afterOps_append (s : State) (ops ops' : List HostOp) :
    Spec.afterOps s (ops ++ ops') = Spec.afterOps (Spec.afterOps s ops) ops' :=
  List.foldl_append

/-- A store of `n` entries that serves single writes is loaded by `loadBytes`; `put m` is the block with `m` in
that store. -/
theorem afterOps_loadBytes {write : Nat → Byte → Access} {put : Memory → State} {n : Nat}
    (hserved : ∀ m i b, i < n → portAccess (write i b) (put m) = (put (Memory.set m i b), .written))
    (m : Memory) (start : Nat) (bs : List Byte) (hfits : start + bs.length ≤ n) :
    Spec.afterOps (put m) (loadBytes write start bs) = put (Memory.load m start bs) := by
  induction bs generalizing m start with
  | nil => rfl
  | cons b bs ih =>
    rw [List.length_cons] at hfits
    change Spec.afterOps (portAccess (write start b) (put m)).1 (loadBytes write (start + 1) bs) = _
    rw [hserved m start b (by omega)]
    exact ih _ _ (by omega)

theorem afterOps_loadPbuf (hb : s.status.busy = false) {bs : List Byte} (hfits : bs.length ≤ s.cfg.pmax) :
    Spec.afterOps s (loadBytes .writePbuf 0 bs) = { s with pbuf := Memory.load s.pbuf 0 bs } :=
  afterOps_loadBytes (put := fun m => { s with pbuf := m }) (n := s.cfg.pmax)
    (fun m _ b hi => portAccess_writePbuf_idle (s := { s with pbuf := m }) hb hi b) s.pbuf 0 bs (by omega)

theorem afterOps_loadRmem (hb : s.status.busy = false) {bs : List Byte} (hfits : bs.length ≤ s.cfg.rmax) :
    Spec.afterOps s (loadBytes .writeRmem 0 bs) = { s with rmem := Memory.load s.rmem 0 bs } :=
  afterOps_loadBytes (put := fun m => { s with rmem := m }) (n := s.cfg.rmax)
    (fun m _ b hi => portAccess_writeRmem_idle (s := { s with rmem := m }) hb hi b) s.rmem 0 bs (by omega)

theorem afterOps_writeOp (hb : s.status.busy = false) (r : Reg) (v : Word) :
    Spec.afterOps s [writeOp r v] = s.writeReg r v :=
  congrArg Prod.fst (portAccess_writeReg_idle hb r v)

/-- What LOADSTR does to an idle block (spec/30_encoding.md R100). -/
theorem afterOps_loadstr (hb : s.status.busy = false) {str : List Char} (hfits : str.length ≤ s.cfg.pmax) :
    Spec.afterOps s (expandStmt s.cfg (.loadstr str)) =
      { s with pbuf := Memory.load s.pbuf 0 (str.map (charCode s.cfg)), len := BitVec.ofNat 32 str.length } := by
  rw [expandStmt, afterOps_append, afterOps_loadPbuf hb (by simpa using hfits)]
  exact afterOps_writeOp (by exact hb) .len _

/-- What LOADIMG does to an idle block (R100). -/
theorem afterOps_loadimg (hb : s.status.busy = false) (w h : Word) {pixels : List Byte}
    (hfits : pixels.length ≤ s.cfg.rmax) :
    Spec.afterOps s (expandStmt s.cfg (.loadimg w h pixels)) =
      { s with rmem := Memory.load s.rmem 0 pixels, width := w, height := h } := by
  rw [expandStmt, afterOps_append, afterOps_loadRmem hb hfits, ← List.singleton_append, afterOps_append,
    afterOps_writeOp (by exact hb) .width]
  exact afterOps_writeOp (by exact hb) .height h

end Sys2Proof.Machine

namespace Sys2Proof.Proofs

open Sys2Proof.Machine

/-- Settles O39: `CommandEffect` says what a command can do, and each of its lemmas one piece of the frame. -/
theorem commandsWriteOnlyTheirResults : Obligations.CommandsWriteOnlyTheirResults := by
  intro i s t h
  have heffect := exec_effect h
  obtain ⟨hcfg, hcmd, hsize, henv, hovr⟩ := heffect.frame
  exact ⟨hcfg, hcmd, hsize, henv, hovr, heffect.parok, heffect.len, heffect.dimensions, heffect.geomout,
    heffect.grid, fun _ => heffect.readRmem, fun _ => heffect.readPbuf⟩

/-- Settles O47: the three steps are the host's write, which starts the command, the engine's step, which ends it,
and the one read of STATUS that the WAIT then needs. -/
theorem commandAndWaitComplete : Obligations.CommandAndWaitComplete := by
  intro s v rest hb hturns hscript
  have hwrite := step_access (nextTurn_host hturns hb) hscript
    (portAccess_writeReg_idle (s := s.popTurn) hb .cmd v)
  generalize ht : ((s.popTurn.writeReg .cmd v).withScript (.wait :: rest)).withReply .written = t at hwrite
  have htb : t.status.busy = true := by rw [← ht]; rfl
  have htt : t.env.turns = [] := by simp [← ht, State.writeReg, hturns]
  obtain ⟨u, hu⟩ := engineStep_eq_next t.popTurn
  have heffect := engineStep_effect hu
  obtain ⟨hub, huenv⟩ := heffect.busy_env
  obtain ⟨hucmd, hudone⟩ := heffect.cmd_done
  have hengine := (step_engine (nextTurn_engine htt htb) htb).trans hu
  have hut : u.env.turns = [] := by simp [huenv, htt]
  have huscript : u.env.script = .wait :: rest := by simp [huenv, ← ht]
  have hwait := step_wait_done (nextTurn_host hut hub) huscript hub hudone
  refine ⟨(u.popTurn.withScript rest).withReply (.data (.word u.status.toWord)), ?_, ?_, hub, hudone, rfl,
    rfl⟩
  · calc Host.Core.run core 3 s
        = Host.Core.run core 2 t := run_succ_of_step (M := core) hwrite 2
      _ = Host.Core.run core 1 u := run_succ_of_step (M := core) hengine 1
      _ = _ := run_succ_of_step (M := core) hwait 0
  · exact hucmd.trans (by rw [← ht]; rfl)

/-- Settles O49: `afterOps_loadstr`, and what the loaded store reads. -/
theorem loadstrLoadsString : Obligations.LoadstrLoadsString := by
  intro s str hlegal hb hfits
  obtain ⟨-, -, -, -, ⟨-, hpmax⟩, -⟩ := hlegal
  have hread := s.readPbuf_load (str.map (charCode s.cfg))
  dsimp only
  rw [afterOps_loadstr hb hfits]
  refine ⟨?_, fun i hi => ?_, fun i hi => ?_, rfl⟩
  · exact (BitVec.toNat_ofNat ..).trans (Nat.mod_eq_of_lt (by omega))
  · exact (hread i).trans (by simp [hi, charCode])
  · exact (hread i).trans (by simp [hi])

/-- Settles O50: `afterOps_loadimg`, what the loaded store reads, and that the list holds every pixel. -/
theorem loadimgLoadsRaster : Obligations.LoadimgLoadsRaster := by
  intro s w h pixels hb hwf hfits
  have hlength : pixels.length = w.toNat * h.toNat := by simpa [Stmt.wf] using hwf
  have hread := s.readRmem_load pixels
  dsimp only
  rw [afterOps_loadimg hb w h hfits]
  refine ⟨rfl, rfl, fun x y hx hy => ?_, fun a ha => ?_, rfl⟩
  · have hindex : y * w.toNat + x < pixels.length := by
      calc y * w.toNat + x < (y + 1) * w.toNat := by rw [Nat.succ_mul]; omega
        _ ≤ h.toNat * w.toNat := Nat.mul_le_mul_right _ hy
        _ = pixels.length := by rw [hlength, Nat.mul_comm]
    rw [List.getElem?_eq_getElem hindex]
    exact congrArg some ((hread _).trans (by simp [hindex])).symm
  · exact (hread a).trans (by simp [ha])

/-- Settles O1: the five words are the commands' own, and `decode_of_not_in_table`. -/
theorem commandWordsDecode : Obligations.CommandWordsDecode :=
  ⟨decode_encode .geom, decode_encode .encode, decode_encode .decode, decode_encode .parapp,
    decode_encode .parchk, fun _ => decode_of_not_in_table⟩

/-- Settles O2: one lemma for each direction. -/
theorem decodeAndEncodeAgree : Obligations.DecodeAndEncodeAgree :=
  ⟨fun i _ => decode_encode i, fun _ _ => encode_of_decode⟩

/-- Settles O3: the engine's turn runs the command of CMD, and a placed table word is its command's. -/
theorem stepRunsDecodedCommand : Obligations.StepRunsDecodedCommand := by
  refine ⟨fun s i hb hn hd => ?_, fun s w i hw => ?_⟩
  · exact (step_engine hn hb).trans (engineStep_of_ok (s := s.popTurn) hd)
  · have hword : BitVec.ofNat 32 (w % 2 ^ 32) = encode i := by
      rw [encode_of_decodeTableWord hw]; exact BitVec.eq_of_toNat_eq (by simp)
    rw [State.withFetchWord, hword]
    exact step_withCommand s i

/-- Settles O11: register 0 is CMD, and a served write of it starts a command. -/
theorem cmdWriteStartsCommand : Obligations.CmdWriteStartsCommand :=
  fun _ v hb => portAccess_writeReg_idle hb .cmd v

/-- Settles O4: the write is served as any CMD write, and the engine's step finds no command. -/
theorem illegalWordRaisesIllegalCommand : Obligations.IllegalWordRaisesIllegalCommand := by
  refine ⟨rfl, fun s v hb hv => ⟨_, cmdWriteStartsCommand s v hb, rfl, rfl, ?_⟩⟩
  exact engineStep_of_error (decode_of_not_in_table hv)

end Sys2Proof.Proofs
end

section
/-! PROOFS. Family 40_geometry: the geometry functions (O22) and the command GEOM (O23). -/

namespace Sys2Proof.Machine

variable {s : State}

/-- GEOM with a valid SIZE (spec/40_geometry.md R114). -/
theorem execGeom_of_size {c : SizeClass} (h : s.size.toNat = c.side) :
    execGeom s = .next { s with geomout := geomOutOf c }.complete := by
  rw [execGeom, sizeClass?_eq_some.2 h]

/-- GEOM with any other SIZE (R114). -/
theorem execGeom_of_no_size (h : s.size.toNat ≠ 5 ∧ s.size.toNat ≠ 7) :
    execGeom s = .next (s.raise .invalidSizeClass) := by
  rw [execGeom, sizeClass?_eq_none.2 h]

end Sys2Proof.Machine

namespace Sys2Proof.Proofs

open Sys2Proof.Machine

/-- Settles O22: `sizeClass?` is the partial inverse of the side (`sizeClass?_eq_some`), `sizeOfTransitions` that
of the border transition count (`sizeOfTransitions_eq_some`). -/
theorem geometryFunctions : Obligations.GeometryFunctions := by
  have hsize (s : Word) (c : SizeClass) : s.toNat = c.side ↔ sizeClass? s = some c :=
    sizeClass?_eq_some.symm
  have hcount (t : Nat) (c : SizeClass) : t = borderTransitionCount c ↔ sizeOfTransitions t = some c :=
    sizeOfTransitions_eq_some.symm
  exact ⟨fun s => ⟨hsize s .small, hsize s .large⟩, rfl, rfl, rfl, rfl, rfl, rfl,
    fun t => ⟨hcount t .small, hcount t .large⟩⟩

/-- Settles O23: GEOM's word is its own encoding, and SIZE names Small, Large or no class. -/
theorem geomComputesGeometry : Obligations.GeomComputesGeometry :=
  ⟨decode_encode .geom, rfl, rfl, fun _ =>
    ⟨execGeom_of_size (c := .small), execGeom_of_size (c := .large), execGeom_of_no_size⟩⟩

end Sys2Proof.Proofs
end

section
/-! PROOFS. Family 41_encoder: the checks of ENCODE in their order (O24), the tag that a successful ENCODE leaves
(O25), and the border of every encoded tag (O26). What the grid and the raster hold is said once, as lemmas about
`encodedCell` and `encodeCommit` for a size class. -/

namespace Sys2Proof.Machine

open Sys2Proof.Spec

variable {s : State} {c : SizeClass} {cfg : Config}

/-! ### Size classes -/

theorem SizeClass.exists_side_eq {n : Nat} (h : n = 5 ∨ n = 7) : ∃ c : SizeClass, c.side = n := by
  obtain rfl | rfl := h
  · exact ⟨.small, rfl⟩
  · exact ⟨.large, rfl⟩

theorem SizeClass.side_pos (c : SizeClass) : 0 < c.side := by cases c <;> decide

/-- Every grid fits in the grid store (spec/10_state.md R38). -/
theorem SizeClass.side_le (c : SizeClass) : c.side ≤ 7 := by cases c <;> decide

/-! ### The checks -/

theorem encodeCheck_of_too_long (hlong : s.cfg.pmax < s.len.toNat) :
    encodeCheck s = .error .bufferOverflow := if_pos hlong

theorem encodeCheck_of_no_size (hfits : s.len.toNat ≤ s.cfg.pmax)
    (hsize : s.size.toNat ≠ 5 ∧ s.size.toNat ≠ 7) : encodeCheck s = .error .invalidSizeClass := by
  rw [encodeCheck, if_neg (Nat.not_lt.2 hfits), sizeClass?_eq_none.2 hsize]

/-- The last two checks, once LEN and SIZE have passed (spec/41_encoder.md R121). -/
theorem encodeCheck_of_size (hfits : s.len.toNat ≤ s.cfg.pmax) (hsize : s.size.toNat = c.side) :
    encodeCheck s =
      if ∃ i, i < s.len.toNat ∧ s.readPbuf i ≠ s.cfg.c0 ∧ s.readPbuf i ≠ s.cfg.c1 then .error .invalidCharset
      else if s.len.toNat ≠ payloadCapacity c then .error .lengthMismatch
      else .ok c := by
  rw [encodeCheck, if_neg (Nat.not_lt.2 hfits), sizeClass?_eq_some.2 hsize]
  simp [isBitChar]

theorem exec_encode_of_error {e : ErrorKind} (h : encodeCheck s = .error e) :
    exec .encode s = .next (raised s e) := by
  rw [exec, execEncode, h]; rfl

/-! ### ENCODE on its operands -/

/-- On a string it accepts ENCODE passes its checks and commits (R129). -/
theorem exec_encode_of_encodable (h : Encodable s c.side) :
    exec .encode s = .next (encodeCommit s c).complete := by
  have hcheck : encodeCheck s = .ok c := encodeCheck_eq_ok.2 ⟨h.fits, h.size, h.chars, h.len⟩
  rw [exec, execEncode, hcheck]

/-! ### The grid -/

theorem borderCell_eq_black {i : Nat} : borderCell i = .black ↔ i % 2 = 0 := by simp [borderCell]

theorem borderCell_ne_succ (i : Nat) : borderCell i ≠ borderCell (i + 1) := by
  intro h
  have hparity : i % 2 = 0 ↔ (i + 1) % 2 = 0 := by rw [← borderCell_eq_black, h, borderCell_eq_black]
  omega

theorem encodedCell_top {str : Nat → Byte} {x : Nat} (hx : x < c.side) :
    encodedCell cfg c str x 0 = borderCell x := by
  simp [encodedCell, hx, c.side_pos]

theorem encodedCell_left {str : Nat → Byte} {y : Nat} (hpos : 0 < y) (hy : y < c.side) :
    encodedCell cfg c str 0 y = borderCell y := by
  simp [encodedCell, hy, c.side_pos, hpos.ne']

/-- Interior row `i`, interior column `j` (R126). -/
theorem encodedCell_interior {str : Nat → Byte} {i j : Nat} (hi : i < c.side - 2) (hj : j < c.side - 2) :
    encodedCell cfg c str (1 + j) (1 + i) = payloadCell cfg (str (payloadIndex (c.side - 2) i j)) := by
  rw [encodedCell, if_pos (by omega), if_neg (by omega), if_neg (by omega), if_pos (by omega),
    Nat.add_sub_cancel_left, Nat.add_sub_cancel_left]

/-- The quiet cells, and the cells of the store outside the grid (R125, R128). -/
theorem encodedCell_quiet {str : Nat → Byte} {x y : Nat}
    (h : (c.side - 1 ≤ x ∧ 1 ≤ y) ∨ (c.side - 1 ≤ y ∧ 1 ≤ x) ∨ c.side ≤ x ∨ c.side ≤ y) :
    encodedCell cfg c str x y = .white := by
  by_cases hin : x < c.side ∧ y < c.side
  · rw [encodedCell, if_pos hin, if_neg (by omega), if_neg (by omega), if_neg (by omega)]
  · rw [encodedCell, if_neg hin]

/-! ### The raster -/

theorem k_pos_of_legal (h : cfg.Legal) : 0 < cfg.k := by
  obtain ⟨⟨hk, -⟩, -⟩ := h
  exact hk

theorem pixelOf_eq_ite (cfg : Config) (cell : Cell) :
    pixelOf cfg cell = if cell = .black then cfg.black else cfg.white := by cases cell <;> rfl

/-- The pixel of a cell is of the cell's own class: BLACK is below the cutoff and WHITE is not (R7). -/
theorem pixelOf_lt_t (h : cfg.Legal) (cell : Cell) : (pixelOf cfg cell).toNat < cfg.t ↔ cell = .black := by
  obtain ⟨-, -, ⟨hblack, hwhite⟩, -⟩ := h
  cases cell with
  | black => exact iff_of_true hblack rfl
  | white => exact iff_of_false (Nat.not_lt.2 hwhite) (by decide)

theorem rasterIndex_lt {w h x y : Nat} (hx : x < w) (hy : y < h) : rasterIndex w x y < h * w :=
  calc y * w + x < (y + 1) * w := by rw [Nat.succ_mul]; omega
    _ ≤ h * w := Nat.mul_le_mul_right _ hy

theorem rasterPixel_rasterIndex {cells : Nat → Nat → Cell} {x : Nat} (hx : x < rasterSide cfg c) (y : Nat) :
    rasterPixel cfg c cells (rasterIndex (rasterSide cfg c) x y) = pixelOf cfg (cells (x / cfg.k) (y / cfg.k)) := by
  have hcolumn : rasterIndex (rasterSide cfg c) x y % rasterSide cfg c = x := by
    rw [rasterIndex, Nat.mul_add_mod', Nat.mod_eq_of_lt hx]
  have hrow : rasterIndex (rasterSide cfg c) x y / rasterSide cfg c = y := by
    rw [rasterIndex, Nat.add_comm, Nat.add_mul_div_right _ _ (Nat.zero_lt_of_lt hx), Nat.div_eq_of_lt hx,
      Nat.zero_add]
  rw [rasterPixel, hcolumn, hrow]

/-- WIDTH and HEIGHT hold the side of the raster whole. -/
theorem toNat_ofNat_rasterSide (h : cfg.Legal) (c : SizeClass) :
    (BitVec.ofNat 32 (rasterSide cfg c)).toNat = rasterSide cfg c := by
  have hsq := rasterSide_sq_le_rmax h c
  have hle := Nat.le_mul_self (rasterSide cfg c)
  obtain ⟨-, -, -, -, -, -, hrmax⟩ := h
  rw [BitVec.toNat_ofNat, Nat.mod_eq_of_lt (by omega)]

/-- RMEM after a successful ENCODE: the raster, and beyond it what it held before (R127, R128). -/
theorem readRmem_encodeCommit (s : State) (c : SizeClass) (a : Nat) :
    (encodeCommit s c).complete.readRmem a =
      if a < rasterSide s.cfg c * rasterSide s.cfg c then
        rasterPixel s.cfg c (encodedCell s.cfg c s.readPbuf) a
      else s.readRmem a := by
  simp only [State.readRmem, State.complete_rmem, State.complete_env, encodeCommit_rmem, encodeCommit_env,
    Memory.get?_writePrefix]
  split <;> rfl

/-- The pixel `(x, y)` of the raster ENCODE leaves (R127). -/
theorem readRmem_encodeCommit_pixel {x y : Nat} (hx : x < rasterSide s.cfg c) (hy : y < rasterSide s.cfg c) :
    (encodeCommit s c).complete.readRmem (rasterIndex (rasterSide s.cfg c) x y) =
      pixelOf s.cfg (encodedCell s.cfg c s.readPbuf (x / s.cfg.k) (y / s.cfg.k)) := by
  rw [readRmem_encodeCommit, if_pos (rasterIndex_lt hx hy), rasterPixel_rasterIndex hx]

theorem cell_encodeCommit {x y : Nat} (hx : x < 7) (hy : y < 7) :
    (encodeCommit s c).complete.grid.cell x y = encodedCell s.cfg c s.readPbuf x y := by
  simp [hx, hy]

/-- DECODE sees every pixel of the raster in the class of the cell it was painted for. -/
theorem isBlack_encodeCommit (h : s.cfg.Legal) {x y : Nat} (hx : x < rasterSide s.cfg c)
    (hy : y < rasterSide s.cfg c) :
    isBlack (encodeCommit s c).complete (rasterIndex (rasterSide s.cfg c) x y) ↔
      encodedCell s.cfg c s.readPbuf (x / s.cfg.k) (y / s.cfg.k) = .black := by
  rw [isBlack, readRmem_encodeCommit_pixel hx hy]
  exact pixelOf_lt_t h _

/-! ### The border of the raster -/

/-- A raster row of the top border is black over the cells of even column (R123, R127). -/
theorem isBlack_encodeCommit_top (h : s.cfg.Legal) {x y : Nat} (hx : x < rasterSide s.cfg c) (hy : y < s.cfg.k) :
    isBlack (encodeCommit s c).complete (rasterIndex (rasterSide s.cfg c) x y) ↔ x / s.cfg.k % 2 = 0 := by
  have hy' : y < rasterSide s.cfg c := hy.trans_le (Nat.le_mul_of_pos_left _ c.side_pos)
  have hcolumn : x / s.cfg.k < c.side := (Nat.div_lt_iff_lt_mul (Nat.zero_lt_of_lt hy)).2 hx
  rw [isBlack_encodeCommit h hx hy', Nat.div_eq_of_lt hy, encodedCell_top hcolumn, borderCell_eq_black]

/-- In the top border two neighbouring pixels differ in class exactly where a new cell begins (R130). -/
theorem top_change_iff_dvd (h : s.cfg.Legal) {x y : Nat} (hx : x + 1 < rasterSide s.cfg c) (hy : y < s.cfg.k) :
    ¬(isBlack (encodeCommit s c).complete (rasterIndex (rasterSide s.cfg c) x y) ↔
        isBlack (encodeCommit s c).complete (rasterIndex (rasterSide s.cfg c) (x + 1) y)) ↔
      s.cfg.k ∣ x + 1 := by
  rw [isBlack_encodeCommit_top h (Nat.lt_of_succ_lt hx) hy, isBlack_encodeCommit_top h hx hy, Nat.succ_div]
  by_cases hk : s.cfg.k ∣ x + 1
  · simp only [hk, if_true, iff_true]; omega
  · simp [hk]

/-- The places where a new cell begins, counted from 1 (R130). -/
theorem dvd_succ_iff_exists_block {n k x : Nat} (hk : 0 < k) (hx : x + 1 < n * k) :
    k ∣ x + 1 ↔ ∃ j, 1 ≤ j ∧ j ≤ n - 1 ∧ x = j * k - 1 := by
  constructor
  · rintro ⟨j, hj⟩
    rw [Nat.mul_comm] at hj
    have hlt : j < n := Nat.lt_of_mul_lt_mul_right (hj ▸ hx)
    have hpos : 0 < j := Nat.pos_of_mul_pos_right (hj.le.trans_lt' x.succ_pos)
    exact ⟨j, hpos, by omega, by omega⟩
  · rintro ⟨j, hpos, -, rfl⟩
    exact ⟨j, by rw [Nat.sub_add_cancel (Nat.mul_pos hpos hk), Nat.mul_comm]⟩

theorem rowTransitions_encodeCommit (h : s.cfg.Legal) (c : SizeClass) :
    rowTransitions (encodeCommit s c).complete (rasterSide s.cfg c) = borderTransitionCount c := by
  have hchange (x : Nat) (hx : x ∈ Finset.range (rasterSide s.cfg c - 1)) :
      ¬(isBlack (encodeCommit s c).complete x ↔ isBlack (encodeCommit s c).complete (x + 1)) ↔
        s.cfg.k ∣ x + 1 := by
    have hx' : x + 1 < rasterSide s.cfg c := by rw [Finset.mem_range] at hx; omega
    simpa [rasterIndex] using top_change_iff_dvd h hx' (k_pos_of_legal h)
  rw [rowTransitions, Finset.filter_congr hchange, Nat.card_multiples]
  calc (c.side * s.cfg.k - 1) / s.cfg.k
      = (s.cfg.k * c.side - (0 + 1)) / s.cfg.k := by rw [Nat.mul_comm]
    _ = c.side - (0 / s.cfg.k + 1) := Nat.mul_sub_div 0 _ _ (Nat.mul_pos (k_pos_of_legal h) c.side_pos)
    _ = borderTransitionCount c := by rw [Nat.zero_div]; rfl

end Sys2Proof.Machine

namespace Sys2Proof.Proofs

open Sys2Proof.Machine

/-- Settles O24: each check has its lemma, and a failing one is the error ENCODE raises. -/
theorem encodeChecksInOrder : Obligations.EncodeChecksInOrder := by
  intro s
  dsimp only
  refine ⟨fun hlong => ?_, fun ⟨hfits, hsize⟩ => ?_, fun ⟨hfits, hsize, hchar⟩ => ?_,
    fun ⟨hfits, hsize, hchars, hlen⟩ => ?_⟩
  · exact exec_encode_of_error (encodeCheck_of_too_long hlong)
  · exact exec_encode_of_error (encodeCheck_of_no_size (Nat.not_lt.1 hfits) hsize)
  all_goals obtain ⟨c, hside⟩ := SizeClass.exists_side_eq (n := s.size.toNat) (by omega)
  all_goals refine exec_encode_of_error ((encodeCheck_of_size (Nat.not_lt.1 hfits) hside.symm).trans ?_)
  · rw [if_pos hchar]
  · rw [← hside] at hlen
    exact (if_neg hchars).trans (if_pos hlen)

/-- Settles O25: the grid cell by cell, the raster pixel by pixel, and the commit as a record for the rest. -/
theorem encodePaintsTag : Obligations.EncodePaintsTag := by
  intro s n hlegal hs
  obtain ⟨c, rfl⟩ := SizeClass.exists_side_eq hs.side
  have hseven := c.side_le
  refine ⟨_, exec_encode_of_encodable hs, fun x hx => ?_, fun y hpos hy => ?_, fun i j hi hj => ?_,
    fun x y hx hy hquiet => ?_, fun x y hx hy => ?_, fun a ha => ?_, toNat_ofNat_rasterSide hlegal c,
    toNat_ofNat_rasterSide hlegal c, rfl⟩
  · exact (cell_encodeCommit (by omega) (by decide)).trans (encodedCell_top hx)
  · exact (cell_encodeCommit (by decide) (by omega)).trans (encodedCell_left hpos hy)
  · exact (cell_encodeCommit (by omega) (by omega)).trans (encodedCell_interior hi hj)
  · exact (cell_encodeCommit hx hy).trans (encodedCell_quiet hquiet)
  · have hdiv {x : Nat} (hx : x < c.side * s.cfg.k) : x / s.cfg.k < 7 :=
      ((Nat.div_lt_iff_lt_mul (k_pos_of_legal hlegal)).2 hx).trans_le hseven
    rw [cell_encodeCommit (hdiv hx) (hdiv hy), ← pixelOf_eq_ite]
    exact readRmem_encodeCommit_pixel hx hy
  · exact (readRmem_encodeCommit s c a).trans (if_neg (Nat.not_lt.2 ha))

/-- Settles O26: a new cell begins at each multiple of K, and neighbouring border cells differ. -/
theorem encodeBorderInvariant : Obligations.EncodeBorderInvariant := by
  intro s n hlegal hs
  obtain ⟨c, rfl⟩ := SizeClass.exists_side_eq hs.side
  have hseven := c.side_le
  refine ⟨_, exec_encode_of_encodable hs, fun x y hx hy => ?_, rowTransitions_encodeCommit hlegal c,
    fun x hx => ?_⟩
  · have hx' : x + 1 < c.side * s.cfg.k := by omega
    exact (top_change_iff_dvd hlegal hx' hy).trans (dvd_succ_iff_exists_block (k_pos_of_legal hlegal) hx')
  · rw [cell_encodeCommit (by omega) (by decide), cell_encodeCommit (by omega) (by decide),
      encodedCell_top (by omega), encodedCell_top (by omega)]
    exact borderCell_ne_succ x

end Sys2Proof.Proofs
end

section
/-! PROOFS. Family 42_decoder: the round trip (O34), the checks of DECODE (O27), what it reads (O28) and where
(O29, O30), and what stray pixels do to the raster of an ENCODE (O31 to O33). DECODE is described once, as lemmas
about `State.sampledCell` and `decodeCommit`; against an encoded raster all turns on one equivalence, that a cell
is read as it was painted exactly when its sampled pixel has kept its class. -/

namespace Sys2Proof.Machine

open Sys2Proof.Spec

variable {s t u : State} {c d : SizeClass} {cfg : Config}

/-! ### Size classes -/

theorem SizeClass.side_eq (c : SizeClass) : c.side = 5 ∨ c.side = 7 := by cases c <;> decide

/-- LEN holds the capacity of every size class whole. -/
theorem toNat_ofNat_payloadCapacity (c : SizeClass) :
    (BitVec.ofNat 32 (payloadCapacity c)).toNat = payloadCapacity c := by cases c <;> decide

/-- GEOMOUT.N holds the side of every size class whole. -/
theorem toNat_geomOutOf_n (c : SizeClass) : (geomOutOf c).n.toNat = c.side := by cases c <;> decide

/-! ### The transition count of row 0 -/

/-- The count looks only at the classes of row 0 (spec/42_decoder.md R154). -/
theorem rowTransitions_congr {w : Nat} (h : ∀ x, x < w → (isBlack u x ↔ isBlack t x)) :
    rowTransitions u w = rowTransitions t w := by
  refine congrArg Finset.card (Finset.filter_congr fun x hx => ?_)
  rw [Finset.mem_range] at hx
  rw [h x (by omega), h (x + 1) (by omega)]

theorem rowTransitions_succ (s : State) (w : Nat) :
    rowTransitions s (w + 2) =
      rowTransitions s (w + 1) + if isBlack s w ↔ isBlack s (w + 1) then 0 else 1 := by
  simp only [rowTransitions, Nat.add_sub_cancel, show w + 2 - 1 = w + 1 from rfl, Finset.card_filter,
    Finset.sum_range_succ, ite_not]

/-- The count is odd exactly when the two ends of the row differ in class. -/
theorem rowTransitions_odd_iff (s : State) (w : Nat) :
    rowTransitions s (w + 1) % 2 = 1 ↔ ¬(isBlack s 0 ↔ isBlack s w) := by
  induction w with
  | zero => simp [rowTransitions]
  | succ w ih =>
    rw [rowTransitions_succ]
    by_cases hlast : isBlack s w ↔ isBlack s (w + 1)
    · rw [if_pos hlast, ← hlast, Nat.add_zero, ih]
    · have hflip : (rowTransitions s (w + 1) + 1) % 2 = 1 ↔ ¬rowTransitions s (w + 1) % 2 = 1 := by omega
      rw [if_neg hlast, hflip, ih]
      tauto

/-- One pixel changed inside a run: the row changes colour before it and after it as well (R145). -/
theorem rowTransitions_of_stray_inner {w b : Nat} (hb : b + 2 < w)
    (hbefore : isBlack t b ↔ isBlack t (b + 1)) (hafter : isBlack t (b + 2) ↔ isBlack t (b + 1))
    (hsame : ∀ x, x < w → x ≠ b + 1 → (isBlack u x ↔ isBlack t x))
    (hstray : ¬(isBlack u (b + 1) ↔ isBlack t (b + 1))) :
    rowTransitions u w = rowTransitions t w + 2 := by
  have hub : isBlack u b ↔ isBlack t b := hsame b (by omega) (by omega)
  have hub2 : isBlack u (b + 2) ↔ isBlack t (b + 2) := hsame (b + 2) (by omega) (by omega)
  have hplaces : ((Finset.range (w - 1)).filter fun x => ¬(isBlack u x ↔ isBlack u (x + 1))) =
      ((Finset.range (w - 1)).filter fun x => ¬(isBlack t x ↔ isBlack t (x + 1))) ∪ {b, b + 1} := by
    ext x
    simp only [Finset.mem_filter, Finset.mem_range, Finset.mem_union, Finset.mem_insert, Finset.mem_singleton]
    by_cases hx : x = b
    · subst hx
      have hin : x < w - 1 := by omega
      tauto
    by_cases hx' : x = b + 1
    · subst hx'
      have hin : b + 1 < w - 1 := by omega
      tauto
    simp only [hx, hx', or_false]
    refine and_congr_right fun hin => ?_
    rw [hsame x (by omega) hx', hsame (x + 1) (by omega) (by omega)]
  have hnew : Disjoint ((Finset.range (w - 1)).filter fun x => ¬(isBlack t x ↔ isBlack t (x + 1)))
      {b, b + 1} := by
    simp [hbefore, hafter]
  rw [rowTransitions, hplaces, Finset.card_union_of_disjoint hnew, Finset.card_pair (by omega), rowTransitions]

/-! ### The checks -/

/-- The model's count of row 0 is the one the statements speak of. -/
theorem transitions_eq_rowTransitions (s : State) (w : Nat) : s.transitions w = rowTransitions s w :=
  s.transitions_eq_card w

theorem exec_decode_of_error {e : ErrorKind} (h : decodeCheck s = .error e) :
    exec .decode s = .next (raised s e) := by
  rw [exec, execDecode, h]; rfl

theorem decodeCheck_of_absent
    (h : s.width.toNat = 0 ∨ s.height.toNat = 0 ∨ s.width.toNat * s.height.toNat > s.cfg.rmax) :
    decodeCheck s = .error .imageLoadFailure := if_pos h

theorem decodeCheck_of_no_size
    (hpresent : ¬(s.width.toNat = 0 ∨ s.height.toNat = 0 ∨ s.width.toNat * s.height.toNat > s.cfg.rmax))
    (hfour : rowTransitions s s.width.toNat ≠ 4) (hsix : rowTransitions s s.width.toNat ≠ 6) :
    decodeCheck s = .error .unrecognizedSize := by
  rw [decodeCheck, if_neg hpresent, transitions_eq_rowTransitions, sizeOfTransitions, if_neg hfour, if_neg hsix]

/-- On a raster it accepts DECODE passes its checks and commits (R151). -/
theorem exec_decode_of_decodable (h : Decodable s c.side) :
    exec .decode s = .next (decodeCommit s c).complete := by
  have hcheck : decodeCheck s = .ok c := decodeCheck_eq_ok.2
    ⟨h.width_pos, h.height_pos, h.fits, (transitions_eq_rowTransitions s _).trans h.count⟩
  rw [exec, execDecode, hcheck]

/-! ### Row-major indices -/

/-- The row of a row-major index; `Nat.mul_add_mod_of_lt` is its column. -/
theorem mul_add_div_of_lt {w x : Nat} (hx : x < w) (y : Nat) : (y * w + x) / w = y := by
  rw [Nat.mul_comm, Nat.mul_add_div (Nat.zero_lt_of_lt hx), Nat.div_eq_of_lt hx, Nat.add_zero]

/-- Row-major indices, of pixels and of characters alike, tell column and row apart. -/
theorem rasterIndex_inj {w x y x' y' : Nat} (hx : x < w) (hx' : x' < w) :
    rasterIndex w x y = rasterIndex w x' y' ↔ x = x' ∧ y = y' := by
  constructor
  · intro h
    have hcolumn := congrArg (· % w) h
    have hrow := congrArg (· / w) h
    simp only [rasterIndex, Nat.mul_add_mod_of_lt, mul_add_div_of_lt, hx, hx'] at hcolumn hrow
    exact ⟨hcolumn, hrow⟩
  · rintro ⟨rfl, rfl⟩
    rfl

/-! ### The sample coordinates -/

theorem sampleCoord_lt {n w x : Nat} (hw : 0 < w) (hx : x < n) : sampleCoord n w x < w := by
  have hcentre : 2 * x + 1 < 2 * n := by omega
  exact Nat.div_lt_of_lt_mul (Nat.mul_lt_mul_of_pos_right hcentre hw)

theorem sampleCoord_mono (n w : Nat) {x x' : Nat} (h : x ≤ x') : sampleCoord n w x ≤ sampleCoord n w x' :=
  Nat.div_le_div_right (Nat.mul_le_mul_right w (by omega))

/-- In a raster of `n` blocks of `k` pixels the sample is the middle pixel of its block (R146). -/
theorem sampleCoord_blocks {n : Nat} (hn : 0 < n) (k x : Nat) : sampleCoord n (n * k) x = x * k + k / 2 :=
  calc (2 * x + 1) * (n * k) / (2 * n)
      = n * (k + 2 * (x * k)) / (n * 2) := by congr 1 <;> ring
    _ = (k + 2 * (x * k)) / 2 := Nat.mul_div_mul_left _ _ hn
    _ = x * k + k / 2 := by omega

theorem blockCentre_div {k : Nat} (hk : 0 < k) (x : Nat) : (x * k + k / 2) / k = x :=
  mul_add_div_of_lt (Nat.div_lt_self hk (by decide)) x

theorem blockCentre_lt {n k x : Nat} (hk : 0 < k) (hx : x < n) : x * k + k / 2 < n * k :=
  (Nat.div_lt_iff_lt_mul hk).1 ((blockCentre_div hk x).trans_lt hx)

/-! ### The cells DECODE reads -/

theorem Cell.eq_of_black_iff {a b : Cell} (h : a = .black ↔ b = .black) : a = b := by
  cases a with
  | black => exact (h.1 rfl).symm
  | white =>
    cases b with
    | black => exact h.2 rfl
    | white => rfl

theorem binarize_eq_black {p : Byte} : binarize cfg p = .black ↔ p.toNat < cfg.t := by
  by_cases hp : p.toNat < cfg.t <;> simp [binarize, hp]

theorem bin_eq_black {w x y : Nat} : s.bin w x y = .black ↔ isBlack s (rasterIndex w x y) :=
  binarize_eq_black

/-- A cell of the tag is the class of its sampled pixel (R147). -/
theorem sampledCell_eq_black {w h x y : Nat} (hx : x < c.side) (hy : y < c.side) :
    s.sampledCell c w h x y = .black ↔
      isBlack s (rasterIndex w (sampleCoord c.side w x) (sampleCoord c.side h y)) := by
  rw [State.sampledCell, if_pos ⟨hx, hy⟩, bin_eq_black]

theorem sampledCell_outside {w h x y : Nat} (hout : c.side ≤ x ∨ c.side ≤ y) :
    s.sampledCell c w h x y = .white := if_neg (by omega)

/-- Two blocks that agree in class at the samples are read as the same cells (R154). -/
theorem sampledCell_congr {w h : Nat}
    (hsame : ∀ x y, x < c.side → y < c.side →
      (isBlack u (rasterIndex w (sampleCoord c.side w x) (sampleCoord c.side h y)) ↔
        isBlack s (rasterIndex w (sampleCoord c.side w x) (sampleCoord c.side h y)))) :
    u.sampledCell c w h = s.sampledCell c w h := by
  funext x y
  by_cases hin : x < c.side ∧ y < c.side
  · obtain ⟨hx, hy⟩ := hin
    refine Cell.eq_of_black_iff ?_
    rw [sampledCell_eq_black hx hy, sampledCell_eq_black hx hy, hsame x y hx hy]
  · rw [sampledCell_outside (by omega), sampledCell_outside (by omega)]

theorem cell_decodeCommit (s : State) (c : SizeClass) (x y : Nat) :
    (decodeCommit s c).complete.grid.cell x y = s.sampledCell c s.width.toNat s.height.toNat x y := by
  have hseven := c.side_le
  by_cases hin : x < 7 ∧ y < 7
  · exact Grid.cell_ofFn _ hin.1 hin.2
  · rw [Grid.cell_outside _ hin, sampledCell_outside (by omega)]

/-! ### The string DECODE reads -/

theorem charOfCell_eq_ite (cfg : Config) (cell : Cell) :
    charOfCell cfg cell = if cell = .black then cfg.c1 else cfg.c0 := by cases cell <;> rfl

theorem charOfCell_eq_or (cfg : Config) (cell : Cell) :
    charOfCell cfg cell = cfg.c0 ∨ charOfCell cfg cell = cfg.c1 := by
  cases cell with
  | black => exact .inr rfl
  | white => exact .inl rfl

/-- On the alphabet the character of a cell inverts the cell of a character: the two codes differ (R7). -/
theorem charOfCell_eq_iff (h : cfg.Legal) {b : Byte} (hb : b = cfg.c0 ∨ b = cfg.c1) (cell : Cell) :
    charOfCell cfg cell = b ↔ cell = payloadCell cfg b := by
  obtain ⟨-, -, -, hne, -⟩ := h
  obtain rfl | rfl := hb <;> cases cell <;> simp [charOfCell, payloadCell, hne, hne.symm]

/-- PBUF after a successful DECODE: the string, and beyond it what it held before (R148, R150). -/
theorem readPbuf_decodeCommit (s : State) (c : SizeClass) (i : Nat) :
    (decodeCommit s c).complete.readPbuf i =
      if i < payloadCapacity c then
        extractedChar s.cfg c (s.sampledCell c s.width.toNat s.height.toNat) i
      else s.readPbuf i := by
  simp only [State.readPbuf, State.complete_pbuf, State.complete_env, decodeCommit_pbuf, decodeCommit_env,
    Memory.get?_writePrefix]
  split <;> rfl

/-- Character `i` belongs to an interior cell (R148). -/
theorem interior_of_lt_payloadCapacity {i : Nat} (hi : i < payloadCapacity c) :
    i % (c.side - 2) < c.side - 2 ∧ i / (c.side - 2) < c.side - 2 := by
  have hrow : i / (c.side - 2) < c.side - 2 := Nat.div_lt_of_lt_mul hi
  exact ⟨Nat.mod_lt _ (Nat.zero_lt_of_lt hrow), hrow⟩

theorem extractedChar_payloadIndex {cells : Nat → Nat → Cell} {i j : Nat} (hj : j < c.side - 2) :
    extractedChar cfg c cells (payloadIndex (c.side - 2) i j) = charOfCell cfg (cells (1 + j) (1 + i)) := by
  rw [extractedChar, payloadIndex, Nat.mul_add_mod_of_lt hj, mul_add_div_of_lt hj]

/-! ### DECODE of an encoded raster -/

/-- The raster element of the middle pixel of the block that ENCODE paints for the cell `(x, y)`. -/
def centreIndex (cfg : Config) (c : SizeClass) (x y : Nat) : Nat :=
  rasterIndex (rasterSide cfg c) (x * cfg.k + cfg.k / 2) (y * cfg.k + cfg.k / 2)

theorem centreIndex_lt (h : cfg.Legal) {x y : Nat} (hx : x < c.side) (hy : y < c.side) :
    centreIndex cfg c x y < rasterSide cfg c * rasterSide cfg c :=
  rasterIndex_lt (blockCentre_lt (k_pos_of_legal h) hx) (blockCentre_lt (k_pos_of_legal h) hy)

/-- Different cells have different samples. -/
theorem centreIndex_inj (h : cfg.Legal) {x y x' y' : Nat} (hx : x < c.side) (hx' : x' < c.side) :
    centreIndex cfg c x y = centreIndex cfg c x' y' ↔ x = x' ∧ y = y' := by
  have hk := k_pos_of_legal h
  exact (rasterIndex_inj (blockCentre_lt hk hx) (blockCentre_lt hk hx')).trans (by simp [hk.ne'])

/-- The block has the parameters, and in WIDTH and HEIGHT the side, of an encoder's raster. -/
structure TagSized (u : State) (cfg : Config) (c : SizeClass) : Prop where
  cfg_eq : u.cfg = cfg
  width : u.width.toNat = rasterSide cfg c
  height : u.height.toNat = rasterSide cfg c

/-- What an ENCODE of an encodable string left, and that a block with its dimensions is sized for it. -/
theorem tagSized_of_exec_encode (hlegal : s.cfg.Legal) (hs : Encodable s c.side)
    (ht : exec .encode s = .next t) (hcfg : u.cfg = t.cfg) (hwidth : u.width = t.width)
    (hheight : u.height = t.height) : t = (encodeCommit s c).complete ∧ TagSized u s.cfg c := by
  rw [exec_encode_of_encodable hs] at ht
  cases ht
  have hside := toNat_ofNat_rasterSide hlegal c
  exact ⟨rfl, hcfg, hwidth ▸ hside, hheight ▸ hside⟩

theorem side_le_rasterSide (h : cfg.Legal) (c : SizeClass) : c.side ≤ rasterSide cfg c :=
  Nat.le_mul_of_pos_right _ (k_pos_of_legal h)

namespace TagSized

/-- Sized for a tag of class `c`, the block may show one of another class `d`. -/
theorem decodable (hu : TagSized u cfg c) (h : cfg.Legal)
    (hcount : rowTransitions u (rasterSide cfg c) = borderTransitionCount d) : Decodable u d.side := by
  have hpos : rasterSide cfg c ≠ 0 := ((c.side_pos).trans_le (side_le_rasterSide h c)).ne'
  refine ⟨d.side_eq, hu.width ▸ hpos, hu.height ▸ hpos, ?_, by rw [hu.width]; exact hcount⟩
  rw [hu.width, hu.height, hu.cfg_eq]
  exact rasterSide_sq_le_rmax h c

/-- A block whose row 0 has kept its classes shows the tag that was encoded (R144). -/
theorem exec_decode_of_top (hu : TagSized u s.cfg c) (h : s.cfg.Legal)
    (htop : ∀ x, x < rasterSide s.cfg c → (isBlack u x ↔ isBlack (encodeCommit s c).complete x)) :
    exec .decode u = .next (decodeCommit u c).complete :=
  exec_decode_of_decodable (hu.decodable h ((rowTransitions_congr htop).trans (rowTransitions_encodeCommit h c)))

theorem exec_decode_unrecognized (hu : TagSized u cfg c) (h : cfg.Legal)
    (hfour : rowTransitions u (rasterSide cfg c) ≠ 4) (hsix : rowTransitions u (rasterSide cfg c) ≠ 6) :
    exec .decode u = .next (raised u .unrecognizedSize) := by
  have hpos := c.side_pos.trans_le (side_le_rasterSide h c)
  have hfits := rasterSide_sq_le_rmax h c
  rw [← hu.width] at hfour hsix
  refine exec_decode_of_error (decodeCheck_of_no_size ?_ hfour hsix)
  rw [hu.width, hu.height, hu.cfg_eq]
  omega

/-- DECODE reads a cell as it was painted exactly when the middle pixel of its block has kept its class. -/
theorem sampledCell_eq_encodedCell (hu : TagSized u s.cfg c) (h : s.cfg.Legal) {x y : Nat} (hx : x < c.side)
    (hy : y < c.side) :
    u.sampledCell c u.width.toNat u.height.toNat x y = encodedCell s.cfg c s.readPbuf x y ↔
      (isBlack u (centreIndex s.cfg c x y) ↔ isBlack (encodeCommit s c).complete (centreIndex s.cfg c x y)) := by
  have hk := k_pos_of_legal h
  have hread : u.sampledCell c u.width.toNat u.height.toNat x y = .black ↔ isBlack u (centreIndex s.cfg c x y) := by
    rw [hu.width, hu.height, sampledCell_eq_black hx hy, centreIndex, rasterSide, sampleCoord_blocks c.side_pos,
      sampleCoord_blocks c.side_pos]
  have hpainted : isBlack (encodeCommit s c).complete (centreIndex s.cfg c x y) ↔
      encodedCell s.cfg c s.readPbuf x y = .black := by
    rw [centreIndex, isBlack_encodeCommit h (blockCentre_lt hk hx) (blockCentre_lt hk hy), blockCentre_div hk,
      blockCentre_div hk]
  rw [← hread, hpainted]
  exact ⟨fun heq => by rw [heq], Cell.eq_of_black_iff⟩

end TagSized

/-- DECODE gives a character back exactly when it reads the character's cell as it was painted. -/
theorem readPbuf_decodeCommit_eq_iff (h : s.cfg.Legal) (hs : Encodable s c.side) (hcfg : u.cfg = s.cfg) {i : Nat}
    (hi : i < payloadCapacity c) :
    (decodeCommit u c).complete.readPbuf i = s.readPbuf i ↔
      u.sampledCell c u.width.toNat u.height.toNat (1 + i % (c.side - 2)) (1 + i / (c.side - 2)) =
        encodedCell s.cfg c s.readPbuf (1 + i % (c.side - 2)) (1 + i / (c.side - 2)) := by
  obtain ⟨hcolumn, hrow⟩ := interior_of_lt_payloadCapacity hi
  have hindex : payloadIndex (c.side - 2) (i / (c.side - 2)) (i % (c.side - 2)) = i := Nat.div_add_mod' ..
  rw [readPbuf_decodeCommit, if_pos hi, encodedCell_interior hrow hcolumn, hindex, hcfg]
  exact charOfCell_eq_iff h (hs.chars i (hs.len ▸ hi)) _

/-- Cells read as they were painted give the string back. -/
theorem readPbuf_decodeCommit_eq (h : s.cfg.Legal) (hs : Encodable s c.side) (hcfg : u.cfg = s.cfg)
    (hcells : ∀ x y, x < c.side → y < c.side →
      u.sampledCell c u.width.toNat u.height.toNat x y = encodedCell s.cfg c s.readPbuf x y) {i : Nat}
    (hi : i < payloadCapacity c) : (decodeCommit u c).complete.readPbuf i = s.readPbuf i := by
  obtain ⟨hcolumn, hrow⟩ := interior_of_lt_payloadCapacity hi
  exact (readPbuf_decodeCommit_eq_iff h hs hcfg hi).2 (hcells _ _ (by omega) (by omega))

/-- Cells read as they were painted give the grid back; outside the tag both grids are white. -/
theorem grid_decodeCommit_eq (hcells : ∀ x y, x < c.side → y < c.side →
      u.sampledCell c u.width.toNat u.height.toNat x y = encodedCell s.cfg c s.readPbuf x y) :
    (decodeCommit u c).complete.grid = (encodeCommit s c).complete.grid := by
  refine Grid.ext_cell fun x y hx hy => ?_
  rw [cell_decodeCommit, cell_encodeCommit hx hy]
  by_cases hin : x < c.side ∧ y < c.side
  · exact hcells x y hin.1 hin.2
  · rw [sampledCell_outside (by omega), encodedCell_quiet (by omega)]

end Sys2Proof.Machine

namespace Sys2Proof.Proofs

open Sys2Proof.Machine Sys2Proof.Spec

/-- Settles O34: the carried raster has kept every class, so every cell is read as it was painted. -/
theorem decodeInvertsEncode : Obligations.DecodeInvertsEncode := by
  intro s t u n hlegal hs ht hcarries
  obtain ⟨c, rfl⟩ := SizeClass.exists_side_eq hs.side
  obtain ⟨rfl, hu⟩ := tagSized_of_exec_encode hlegal hs ht hcarries.cfg hcarries.width hcarries.height
  have hclass {a : Nat} (ha : a < rasterSide s.cfg c * rasterSide s.cfg c) :
      isBlack u a ↔ isBlack (encodeCommit s c).complete a := by
    rw [isBlack, hcarries.pixels a (by rwa [← hcarries.width, ← hcarries.height, hu.width, hu.height]),
      hcarries.cfg]
  have hexec := hu.exec_decode_of_top hlegal fun x hx => hclass (hx.trans_le (Nat.le_mul_self _))
  have hcells (x y : Nat) (hx : x < c.side) (hy : y < c.side) :
      u.sampledCell c u.width.toNat u.height.toNat x y = encodedCell s.cfg c s.readPbuf x y :=
    (hu.sampledCell_eq_encodedCell hlegal hx hy).2 (hclass (centreIndex_lt hlegal hx hy))
  exact ⟨_, hexec, rfl, toNat_ofNat_payloadCapacity c,
    fun i hi => readPbuf_decodeCommit_eq hlegal hs hu.cfg_eq hcells (toNat_ofNat_payloadCapacity c ▸ hi),
    toNat_geomOutOf_n c, rfl, grid_decodeCommit_eq hcells⟩

/-- Settles O27: each check has its lemma, and a failing one is the error DECODE raises. -/
theorem decodeChecksInOrder : Obligations.DecodeChecksInOrder := fun _ =>
  ⟨fun habsent => exec_decode_of_error (decodeCheck_of_absent habsent),
    fun ⟨hpresent, hfour, hsix⟩ => exec_decode_of_error (decodeCheck_of_no_size hpresent hfour hsix)⟩

/-- Settles O28: the grid cell by cell, the string character by character, and the commit as a record for the
rest. -/
theorem decodeReadsTag : Obligations.DecodeReadsTag := by
  intro s n _ hs
  obtain ⟨c, rfl⟩ := SizeClass.exists_side_eq hs.side
  refine ⟨_, exec_decode_of_decodable hs, fun x y hx hy => ?_, fun x y hout => ?_, fun i j hi hj => ?_,
    fun i hi => ?_, toNat_ofNat_payloadCapacity c, rfl⟩
  · rw [cell_decodeCommit]
    exact sampledCell_eq_black hx hy
  · rw [cell_decodeCommit, sampledCell_outside hout]
  · rw [cell_decodeCommit, ← charOfCell_eq_ite, ← extractedChar_payloadIndex hj]
    exact (readPbuf_decodeCommit s c _).trans (if_pos (rasterIndex_lt hj hi))
  · exact (readPbuf_decodeCommit s c i).trans (if_neg (Nat.not_lt.2 hi))

/-- Settles O29: the centre of a cell that lies in the grid lies in the raster, and in a raster of blocks it is
the middle of the cell's block. -/
theorem sampleCoordinates : Obligations.SampleCoordinates := by
  intro n hn
  have hpos : 0 < n := by omega
  refine ⟨fun w x hw hx => ⟨rfl, Nat.le_sub_one_of_lt (sampleCoord_lt hw hx)⟩, fun w x x' => sampleCoord_mono n w,
    fun k x hk => ?_⟩
  rw [sampleCoord_blocks hpos]
  exact ⟨rfl, Nat.le_add_right .., blockCentre_lt hk x.lt_succ_self⟩

/-- Settles O30: equal classes in row 0 give the same checks, and equal classes at the samples the same cells. -/
theorem decodeSeesOnlyClassesAtSamples : Obligations.DecodeSeesOnlyClassesAtSamples := by
  intro s s' n hs hcfg hwidth hheight hrow hsamples
  obtain ⟨c, rfl⟩ := SizeClass.exists_side_eq hs.side
  have hs' : Decodable s' c.side :=
    { side := hs.side
      width_pos := hwidth ▸ hs.width_pos
      height_pos := hheight ▸ hs.height_pos
      fits := hwidth ▸ hheight ▸ hcfg ▸ hs.fits
      count := by rw [hwidth, rowTransitions_congr hrow, hs.count] }
  have hcells : s'.sampledCell c s'.width.toNat s'.height.toNat =
      s.sampledCell c s.width.toNat s.height.toNat := by
    rw [hwidth, hheight]
    exact sampledCell_congr hsamples
  refine ⟨_, _, exec_decode_of_decodable hs, exec_decode_of_decodable hs', congrArg Grid.ofFn hcells, rfl, rfl,
    fun i hi => ?_⟩
  have hi' : i < payloadCapacity c := toNat_ofNat_payloadCapacity c ▸ hi
  rw [readPbuf_decodeCommit, readPbuf_decodeCommit, if_pos hi', if_pos hi', hcells, hcfg]

/-- Settles O31: the ends of an encoded row 0 agree in class, as its count is even; with one of them changed they
differ, and an odd count names no size. -/
theorem strayEndPixelIsUnrecognized : Obligations.StrayEndPixelIsUnrecognized := by
  intro s t u n a hlegal hs ht hcfg hwidth hheight ha hsame hstray
  obtain ⟨c, rfl⟩ := SizeClass.exists_side_eq hs.side
  obtain ⟨rfl, hu⟩ := tagSized_of_exec_encode hlegal hs ht hcfg hwidth hheight
  have hside := c.side_eq
  have hle := side_le_rasterSide hlegal c
  obtain ⟨w, hw⟩ : ∃ w, rasterSide s.cfg c = w + 1 := ⟨_, (Nat.sub_add_cancel (by omega)).symm⟩
  have hends : isBlack (encodeCommit s c).complete 0 ↔ isBlack (encodeCommit s c).complete w := by
    by_contra hdiffer
    have hodd := (rowTransitions_odd_iff _ w).2 hdiffer
    rw [← hw, rowTransitions_encodeCommit hlegal, borderTransitionCount] at hodd
    omega
  rw [← rasterSide, hw] at ha hsame
  rw [Nat.add_sub_cancel] at ha
  have hodd : rowTransitions u (rasterSide s.cfg c) % 2 = 1 := by
    rw [hw, rowTransitions_odd_iff]
    obtain rfl | rfl := ha
    · rwa [hsame w w.lt_succ_self (by omega), ← hends]
    · rwa [hsame 0 a.succ_pos (by omega), hends, iff_comm]
  exact hu.exec_decode_unrecognized hlegal (by omega) (by omega)

/-- Settles O32: two transitions more, so 4 becomes 6 and 6 becomes 8, which names no size. -/
theorem strayInnerPixelChangesSize : Obligations.StrayInnerPixelChangesSize := by
  intro s t u n a hlegal hs ht hcfg hwidth hheight hpos hlt hbefore hafter hsame hstray
  obtain ⟨c, rfl⟩ := SizeClass.exists_side_eq hs.side
  obtain ⟨rfl, hu⟩ := tagSized_of_exec_encode hlegal hs ht hcfg hwidth hheight
  obtain ⟨b, rfl⟩ : ∃ b, a = b + 1 := ⟨a - 1, by omega⟩
  have hinner : b + 2 < rasterSide s.cfg c := by rw [rasterSide]; omega
  have hcount : rowTransitions u (rasterSide s.cfg c) = c.side + 1 := by
    have hside := c.side_pos
    rw [rowTransitions_of_stray_inner hinner hbefore hafter hsame hstray, rowTransitions_encodeCommit hlegal,
      borderTransitionCount]
    omega
  refine ⟨hcount, fun hsmall => ?_, fun hlarge => ?_⟩
  · have hdecodable : Decodable u SizeClass.large.side := hu.decodable hlegal (hcount.trans (by rw [hsmall]; rfl))
    exact ⟨_, exec_decode_of_decodable hdecodable, rfl, rfl, rfl⟩
  · exact hu.exec_decode_unrecognized hlegal (by omega) (by omega)

/-- Settles O33: the changed pixel is the sample of one interior cell and of no other, and not in row 0. -/
theorem wrongSampleFlipsOneBit : Obligations.WrongSampleFlipsOneBit := by
  intro s t u n r j hlegal hs ht hcfg hwidth hheight hr hj hclass
  obtain ⟨c, rfl⟩ := SizeClass.exists_side_eq hs.side
  obtain ⟨rfl, hu⟩ := tagSized_of_exec_encode hlegal hs ht hcfg hwidth hheight
  have hk := k_pos_of_legal hlegal
  have htop : ∀ x, x < rasterSide s.cfg c → (isBlack u x ↔ isBlack (encodeCommit s c).complete x) := by
    intro x hx
    refine (hclass x (hx.trans_le (Nat.le_mul_self _))).2 (Nat.ne_of_lt (hx.trans_le ?_))
    exact (Nat.le_mul_of_pos_left _ (by positivity)).trans (Nat.le_add_right ..)
  refine ⟨_, hu.exec_decode_of_top hlegal htop, rfl, toNat_ofNat_payloadCapacity c, fun i hi => ⟨?_, ?_⟩⟩
  · rw [readPbuf_decodeCommit, if_pos (show i < payloadCapacity c from hi), hu.cfg_eq]
    exact charOfCell_eq_or ..
  · obtain ⟨hcolumn, hrow⟩ := interior_of_lt_payloadCapacity hi
    have hx : 1 + i % (c.side - 2) < c.side := by omega
    have hy : 1 + i / (c.side - 2) < c.side := by omega
    have hindex : rasterIndex (c.side - 2) (i % (c.side - 2)) (i / (c.side - 2)) = i := Nat.div_add_mod' ..
    rw [readPbuf_decodeCommit_eq_iff hlegal hs hu.cfg_eq hi, hu.sampledCell_eq_encodedCell hlegal hx hy]
    refine (hclass _ (centreIndex_lt hlegal hx hy)).trans (not_congr ?_)
    calc centreIndex s.cfg c (1 + i % (c.side - 2)) (1 + i / (c.side - 2)) = centreIndex s.cfg c (1 + j) (1 + r)
      _ ↔ 1 + i % (c.side - 2) = 1 + j ∧ 1 + i / (c.side - 2) = 1 + r := centreIndex_inj hlegal hx (by omega)
      _ ↔ i % (c.side - 2) = j ∧ i / (c.side - 2) = r := and_congr Nat.add_left_cancel_iff Nat.add_left_cancel_iff
      _ ↔ i = rasterIndex (c.side - 2) j r := by rw [← rasterIndex_inj hcolumn hj, hindex]

end Sys2Proof.Proofs
end

section
/-! PROOFS. Family 43_integrity: PARAPP (O36), PARCHK (O37) and what the parity character detects (O38). All three
turn on the parity of `onesOf`: over the alphabet the check holds exactly when the whole string has an even number
of '1', and the number of places in which two strings differ has the parity of their '1's together. -/

namespace Sys2Proof.Machine

open Sys2Proof.Spec

variable {s t u : State} {n : Nat}

/-! ### Counting '1' -/

theorem c0_ne_c1_of_legal {cfg : Config} (h : cfg.Legal) : cfg.c0 ≠ cfg.c1 := by
  obtain ⟨-, -, -, hne, -⟩ := h
  exact hne

theorem onesOf_succ (s : State) (n : Nat) :
    onesOf s (n + 1) = onesOf s n + if s.readPbuf n = s.cfg.c1 then 1 else 0 := by
  simp only [onesOf, Finset.card_filter, Finset.sum_range_succ]

theorem onesOf_congr (hcfg : t.cfg = s.cfg) (h : ∀ i, i < n → t.readPbuf i = s.readPbuf i) :
    onesOf t n = onesOf s n := by
  refine congrArg Finset.card (Finset.filter_congr fun i hi => ?_)
  rw [h i (Finset.mem_range.1 hi), hcfg]

/-! ### The parity character -/

/-- The model's parity character is the one the statements speak of. -/
theorem parityChar_eq_ite (s : State) (n : Nat) :
    s.parityChar n = if onesOf s n % 2 = 1 then s.cfg.c1 else s.cfg.c0 := by
  rw [State.parityChar, State.ones_eq_card, onesOf]

theorem parityChar_eq_or (s : State) (n : Nat) : s.parityChar n = s.cfg.c0 ∨ s.parityChar n = s.cfg.c1 :=
  (ite_eq_or_eq ..).symm

theorem parityChar_eq_c0_iff (hlegal : s.cfg.Legal) : s.parityChar n = s.cfg.c0 ↔ onesOf s n % 2 = 0 := by
  simp [parityChar_eq_ite, (c0_ne_c1_of_legal hlegal).symm]

theorem parityChar_eq_c1_iff (hlegal : s.cfg.Legal) : s.parityChar n = s.cfg.c1 ↔ onesOf s n % 2 = 1 := by
  simp [parityChar_eq_ite, c0_ne_c1_of_legal hlegal]

/-- A character of the alphabet is the parity character of those before it exactly when, itself included, the
number of '1' is even (spec/43_integrity.md R170). -/
theorem readPbuf_eq_parityChar_iff (hlegal : s.cfg.Legal)
    (hn : s.readPbuf n = s.cfg.c0 ∨ s.readPbuf n = s.cfg.c1) :
    s.readPbuf n = s.parityChar n ↔ onesOf s (n + 1) % 2 = 0 := by
  rw [onesOf_succ, eq_comm]
  obtain hn | hn := hn
  · rw [hn, parityChar_eq_c0_iff hlegal, if_neg (c0_ne_c1_of_legal hlegal), Nat.add_zero]
  · rw [hn, parityChar_eq_c1_iff hlegal, if_pos rfl]
    omega

/-! ### Flipped characters -/

/-- In how many of their first `n` characters the strings of `t` and `u` differ. -/
def flips (t u : State) (n : Nat) : Nat :=
  ((Finset.range n).filter fun i => u.readPbuf i ≠ t.readPbuf i).card

theorem flips_succ (t u : State) (n : Nat) :
    flips t u (n + 1) = flips t u n + if u.readPbuf n = t.readPbuf n then 0 else 1 := by
  simp only [flips, Finset.card_filter, Finset.sum_range_succ, ite_not]

/-- Of two different characters of the alphabet exactly one is '1', so each flip changes the parity of the number
of '1' in one of the two strings (R175). -/
theorem flips_mod_two (hlegal : t.cfg.Legal) (hcfg : u.cfg = t.cfg)
    (ht : ∀ i, i < n → t.readPbuf i = t.cfg.c0 ∨ t.readPbuf i = t.cfg.c1)
    (hu : ∀ i, i < n → u.readPbuf i = t.cfg.c0 ∨ u.readPbuf i = t.cfg.c1) :
    flips t u n % 2 = (onesOf t n + onesOf u n) % 2 := by
  induction n with
  | zero => rfl
  | succ n ih =>
    have hrest := ih (fun i hi => ht i (Nat.lt_succ_of_lt hi)) fun i hi => hu i (Nat.lt_succ_of_lt hi)
    rw [flips_succ, onesOf_succ, onesOf_succ, hcfg]
    by_cases hsame : u.readPbuf n = t.readPbuf n
    · rw [if_pos hsame, hsame]
      omega
    · have hone : u.readPbuf n = t.cfg.c1 ↔ ¬t.readPbuf n = t.cfg.c1 := by
        have hne := c0_ne_c1_of_legal hlegal
        grind
      rw [if_neg hsame, if_congr hone rfl rfl, ite_not]
      split <;> omega

/-! ### PARAPP -/

/-- What a PARAPP with room leaves (R172). -/
def parappResult (s : State) : State :=
  { s.writePbuf s.len.toNat (s.parityChar s.len.toNat) with len := BitVec.ofNat 32 (s.len.toNat + 1) }.complete

theorem exec_parapp_of_full (h : s.cfg.pmax ≤ s.len.toNat) :
    exec .parapp s = .next (raised s .bufferOverflow) := if_pos h

theorem exec_parapp_of_room (h : s.len.toNat < s.cfg.pmax) :
    exec .parapp s = .next (parappResult s) := if_neg (Nat.not_le.2 h)

theorem readPbuf_parappResult (s : State) (i : Nat) :
    (parappResult s).readPbuf i =
      if i = s.len.toNat then s.parityChar s.len.toNat else s.readPbuf i :=
  s.readPbuf_writePbuf _ i _

/-- LEN holds the new length whole: PMAX is at most 255 (spec/00_scope.md R7). -/
theorem toNat_len_parappResult (hlegal : s.cfg.Legal) (h : s.len.toNat < s.cfg.pmax) :
    (parappResult s).len.toNat = s.len.toNat + 1 := by
  obtain ⟨-, -, -, -, ⟨-, hpmax⟩, -⟩ := hlegal
  exact Nat.mod_eq_of_lt (by omega)

/-- PARAPP appends to a string over the alphabet a character of the alphabet. -/
theorem parappResult_chars (h : ∀ i, i < s.len.toNat → s.readPbuf i = s.cfg.c0 ∨ s.readPbuf i = s.cfg.c1) :
    ∀ i, i < s.len.toNat + 1 → (parappResult s).readPbuf i = s.cfg.c0 ∨ (parappResult s).readPbuf i = s.cfg.c1 := by
  intro i hi
  rw [readPbuf_parappResult]
  split
  · exact parityChar_eq_or s _
  · exact h i (by omega)

/-- A string with its parity character has an even number of '1' (R170). -/
theorem onesOf_parappResult_even (hlegal : s.cfg.Legal) :
    onesOf (parappResult s) (s.len.toNat + 1) % 2 = 0 := by
  have hones : onesOf (parappResult s) s.len.toNat = onesOf s s.len.toNat :=
    onesOf_congr rfl fun i hi => (readPbuf_parappResult s i).trans (if_neg hi.ne)
  have hlast : (parappResult s).readPbuf s.len.toNat = s.parityChar s.len.toNat :=
    (readPbuf_parappResult s _).trans (if_pos rfl)
  refine (readPbuf_eq_parityChar_iff (s := parappResult s) hlegal ?_).1 ?_
  · rw [hlast]
    exact parityChar_eq_or s _
  · rw [hlast, parityChar_eq_ite, parityChar_eq_ite, hones]
    rfl

/-! ### PARCHK -/

/-- What a PARCHK of a string that PBUF holds leaves (R174). -/
def parchkResult (s : State) : State :=
  { s with status := s.status.setParok (s.parityHolds s.len.toNat) }.complete

theorem exec_parchk_of_too_long (h : s.cfg.pmax < s.len.toNat) :
    exec .parchk s = .next (raised s .bufferOverflow) := if_pos h

theorem exec_parchk_of_fits (h : s.len.toNat ≤ s.cfg.pmax) :
    exec .parchk s = .next (parchkResult s) := if_neg (Nat.not_lt.2 h)

theorem parityHolds_of_ne_zero (h : n ≠ 0) :
    s.parityHolds n =
      decide (s.readPbuf (n - 1) = if onesOf s (n - 1) % 2 = 1 then s.cfg.c1 else s.cfg.c0) := by
  rw [State.parityHolds, if_neg h, parityChar_eq_ite]

/-- Over the alphabet the check holds exactly of the strings with an even number of '1' (R174, corner case f). -/
theorem parityHolds_iff_even (hlegal : s.cfg.Legal) (h : n ≠ 0)
    (hchars : ∀ i, i < n → s.readPbuf i = s.cfg.c0 ∨ s.readPbuf i = s.cfg.c1) :
    s.parityHolds n = true ↔ onesOf s n % 2 = 0 := by
  obtain ⟨n, rfl⟩ := Nat.exists_eq_succ_of_ne_zero h
  rw [State.parityHolds, if_neg h, decide_eq_true_iff]
  exact readPbuf_eq_parityChar_iff hlegal (hchars n n.lt_succ_self)

end Sys2Proof.Machine

namespace Sys2Proof.Proofs

open Sys2Proof.Machine Sys2Proof.Spec

/-- Settles O36: a full buffer is an error; else the commit, field by field, and the string it leaves has an even
number of '1', whose parity character is '0'. -/
theorem parappAppendsParity : Obligations.ParappAppendsParity := by
  refine ⟨decode_encode .parapp, fun s => ⟨exec_parapp_of_full, fun hroom hlegal => ?_⟩⟩
  have hlen := toNat_len_parappResult hlegal hroom
  refine ⟨_, exec_parapp_of_room hroom, ?_, hlen, fun i hi => ?_, rfl, fun hroom' => ?_⟩
  · rw [readPbuf_parappResult, if_pos rfl, parityChar_eq_ite]
  · rw [readPbuf_parappResult, if_neg hi]
  · refine ⟨_, exec_parapp_of_room (s := parappResult s) hroom', ?_⟩
    rw [readPbuf_parappResult, if_pos rfl, hlen]
    exact (parityChar_eq_c0_iff (s := parappResult s) hlegal).2 (onesOf_parappResult_even hlegal)

/-- Settles O37: PARCHK writes nothing it reads, so it answers the same again, and over the alphabet
`parityHolds_iff_even`. -/
theorem parchkReportsParity : Obligations.ParchkReportsParity := by
  refine ⟨decode_encode .parchk, fun s => ⟨exec_parchk_of_too_long, fun hfits hzero => ?_, fun hfits hne => ?_,
    fun t ht => ?_, fun hlegal hfits hne hchars => ?_⟩⟩
  · rw [exec_parchk_of_fits hfits, parchkResult, hzero]
    rfl
  · rw [exec_parchk_of_fits hfits, parchkResult, parityHolds_of_ne_zero hne]
    rfl
  · obtain ⟨hlong, rfl⟩ | ⟨hfits, rfl⟩ := execParchk_cases ht
    · exact exec_parchk_of_too_long (s := s.raise .bufferOverflow) hlong
    · exact exec_parchk_of_fits (s := parchkResult s) hfits
  · exact ⟨_, exec_parchk_of_fits hfits, parityHolds_iff_even hlegal hne hchars⟩

/-- Settles O38: the string PARAPP leaves has an even number of '1', so by `flips_mod_two` the number of flips has
the parity of the number of '1' that PARCHK then finds. -/
theorem parityDetectsOddFlips : Obligations.ParityDetectsOddFlips := by
  intro s t u hlegal hroom hs ht hucfg hulen hu
  obtain rfl : parappResult s = t := Host.Outcome.next.inj ((exec_parapp_of_room hroom).symm.trans ht)
  have hlen := toNat_len_parappResult hlegal hroom
  have hulen' : u.len.toNat = s.len.toNat + 1 := by rw [hulen, hlen]
  rw [hlen] at hu ⊢
  have hcheck : u.parityHolds u.len.toNat = true ↔ onesOf u (s.len.toNat + 1) % 2 = 0 := by
    rw [hulen']
    exact parityHolds_iff_even (hucfg ▸ hlegal) (Nat.succ_ne_zero _) (hucfg ▸ hu)
  have hflips := flips_mod_two (t := parappResult s) hlegal hucfg (parappResult_chars hs) hu
  have heven := onesOf_parappResult_even hlegal
  refine ⟨_, exec_parchk_of_fits (by rw [hulen', hucfg]; exact hroom), hcheck.trans ?_⟩
  rw [← flips]
  omega

end Sys2Proof.Proofs
end

section
/-! PROOFS. Family 60_exceptions: the two ways a command ends (O18), that an error leaves no partial result (O20),
and that the next CMD write forgets it (O21). -/

namespace Sys2Proof.Machine

variable {s t : State}

/-- The two ways a command ends (spec/60_exceptions.md R185): `complete`, which leaves the error fields alone
(R189), and `raise` of an error in the command's row of R201. -/
theorem exec_completes_or_raises {i : Instr} (h : exec i s = .next t) :
    (t.status.busy = false ∧ t.status.done = true ∧ t.status.err = s.status.err ∧
      t.status.ecode = s.status.ecode) ∨
    ∃ e, mayRaise (encode i) e = true ∧ t = s.raise e := by
  cases i with
  | geom =>
    obtain ⟨-, rfl⟩ | ⟨c, -, rfl⟩ := execGeom_cases h
    · exact .inr ⟨_, rfl, rfl⟩
    · exact .inl ⟨rfl, rfl, rfl, rfl⟩
  | encode =>
    obtain ⟨e, he, rfl⟩ | ⟨c, -, rfl⟩ := execEncode_cases h
    · refine .inr ⟨e, ?_, rfl⟩
      simpa [mayRaise, decode_encode, or_assoc] using encodeCheck_eq_error he
    · exact .inl ⟨rfl, rfl, rfl, rfl⟩
  | decode =>
    obtain ⟨e, he, rfl⟩ | ⟨c, -, rfl⟩ := execDecode_cases h
    · refine .inr ⟨e, ?_, rfl⟩
      simpa [mayRaise, decode_encode] using decodeCheck_eq_error he
    · exact .inl ⟨rfl, rfl, rfl, rfl⟩
  | parapp =>
    obtain ⟨-, rfl⟩ | ⟨-, rfl⟩ := execParapp_cases h
    · exact .inr ⟨_, rfl, rfl⟩
    · exact .inl ⟨rfl, rfl, rfl, rfl⟩
  | parchk =>
    obtain ⟨-, rfl⟩ | ⟨-, rfl⟩ := execParchk_cases h
    · exact .inr ⟨_, rfl, rfl⟩
    · exact .inl ⟨rfl, rfl, rfl, rfl⟩

/-- An engine's step that sets ERR is a `raise`, whatever word CMD holds (R190). -/
theorem EngineEffect.eq_raise (h : EngineEffect s t) (hs : s.status.err = false) (ht : t.status.err = true) :
    ∃ e, t = s.raise e := by
  cases h with
  | raise e => exact ⟨e, rfl⟩
  | geom | encode | decode | parapp | parchk => simp [hs] at ht

/-- A CMD write overwrites every field of STATUS in which `raise` and `complete` differ (R188,
spec/30_encoding.md R92). -/
theorem startCommand_raise (s : State) (e : ErrorKind) (v : Word) :
    (s.raise e).startCommand v = s.complete.startCommand v := rfl

end Sys2Proof.Machine

namespace Sys2Proof.Proofs

open Sys2Proof.Machine

/-- Settles O18: every command has a next state, and `exec_completes_or_raises` says which. -/
theorem commandsCompleteOrRaise : Obligations.CommandsCompleteOrRaise := by
  intro i s
  obtain ⟨t, ht⟩ := exec_eq_next i s
  exact ⟨t, ht, exec_completes_or_raises ht⟩

/-- Settles O20: the accesses reach OVR alone (`afterAccesses_busy`), so the engine's step still finds ERR clear and
the operands of the CMD write; if it then sets ERR it is a `raise`, which writes STATUS alone. -/
theorem errorsArePrecise : Obligations.ErrorsArePrecise := by
  intro s v as _
  rw [afterAccesses_busy (s := s.startCommand v) as rfl]
  obtain ⟨t, ht⟩ := engineStep_eq_next ((s.startCommand v).withOvr _)
  refine ⟨t, ht, fun herr => ?_⟩
  obtain ⟨e, rfl⟩ := (engineStep_effect ht).eq_raise rfl herr
  rfl

/-- Settles O21: both blocks are idle, so both serve the write, and `startCommand_raise`. -/
theorem errorsLeaveNoTrace : Obligations.ErrorsLeaveNoTrace := by
  intro s e v
  calc portAccess (.writeReg 0 v) (s.raise e)
      = ((s.raise e).startCommand v, .written) := portAccess_writeReg_idle rfl .cmd v
    _ = (s.complete.startCommand v, .written) := by rw [startCommand_raise]
    _ = portAccess (.writeReg 0 v) s.complete := (portAccess_writeReg_idle rfl .cmd v).symm

end Sys2Proof.Proofs
end

section
/-! PROOFS. Family 70_reset_and_hazards: clean integer rescales decode exactly (O35), termination (O19), and reset
with the commands straight after it (O16, O17). Both kinds of rescale leave the encoder's picture in square blocks
of another side, `ShowsTag`; that DECODE reads such a raster back is proved once, for blocks of every side. -/

namespace Sys2Proof.Machine

open Sys2Proof.Spec

variable {s t u : State} {c : SizeClass} {k : Nat}

/-! ### Rasters of square blocks -/

/-- The raster of `u` shows the grid that ENCODE builds from the string of `s`, each cell as a block of `k×k`
pixels of the cell's class. -/
structure ShowsTag (u s : State) (c : SizeClass) (k : Nat) : Prop where
  cfg_eq : u.cfg = s.cfg
  k_pos : 0 < k
  width : u.width.toNat = c.side * k
  height : u.height.toNat = c.side * k
  isBlack_iff : ∀ x y, x < c.side * k → y < c.side * k →
    (isBlack u (rasterIndex (c.side * k) x y) ↔ encodedCell s.cfg c s.readPbuf (x / k) (y / k) = .black)

/-- A row of `n` blocks that alternate in class changes at the `n-1` places where a new block begins. -/
theorem rowTransitions_of_alternating {n : Nat} (hn : 0 < n) (hk : 0 < k)
    (hrow : ∀ x, x < n * k → (isBlack u x ↔ x / k % 2 = 0)) : rowTransitions u (n * k) = n - 1 := by
  have hchange (x : Nat) (hx : x ∈ Finset.range (n * k - 1)) :
      ¬(isBlack u x ↔ isBlack u (x + 1)) ↔ k ∣ x + 1 := by
    rw [Finset.mem_range] at hx
    rw [hrow x (by omega), hrow (x + 1) (by omega), Nat.succ_div]
    by_cases hnew : k ∣ x + 1
    · simp only [hnew, if_true, iff_true]
      omega
    · simp [hnew]
  have hlast : n * k - 1 = (n - 1) * k + (k - 1) := by
    obtain ⟨m, rfl⟩ := Nat.exists_eq_add_one.2 hn
    rw [Nat.succ_mul, Nat.add_sub_assoc hk, Nat.add_sub_cancel]
  rw [rowTransitions, Finset.filter_congr hchange, Nat.card_multiples, hlast, mul_add_div_of_lt (by omega)]

namespace ShowsTag

theorem rowTransitions_eq (hu : ShowsTag u s c k) : rowTransitions u (c.side * k) = borderTransitionCount c := by
  refine rowTransitions_of_alternating c.side_pos hu.k_pos fun x hx => ?_
  have hcolumn : x / k < c.side := (Nat.div_lt_iff_lt_mul hu.k_pos).2 hx
  have hpixel := hu.isBlack_iff x 0 hx (Nat.zero_lt_of_lt hx)
  rwa [rasterIndex, Nat.zero_mul, Nat.zero_add, Nat.zero_div, encodedCell_top hcolumn, borderCell_eq_black]
    at hpixel

/-- DECODE recognizes the tag, whatever the side of its blocks (spec/42_decoder.md R141, R144). -/
theorem exec_decode (hu : ShowsTag u s c k) (hfits : c.side * k * (c.side * k) ≤ s.cfg.rmax) :
    exec .decode u = .next (decodeCommit u c).complete := by
  have hpos : c.side * k ≠ 0 := (Nat.mul_pos c.side_pos hu.k_pos).ne'
  exact exec_decode_of_decodable
    { side := c.side_eq
      width_pos := hu.width ▸ hpos
      height_pos := hu.height ▸ hpos
      fits := by rwa [hu.width, hu.height, hu.cfg_eq]
      count := by rw [hu.width, hu.rowTransitions_eq, borderTransitionCount] }

/-- The sampled pixel is the middle one of its block, so every cell is read as it was painted (R146, R147). -/
theorem sampledCell_eq (hu : ShowsTag u s c k) {x y : Nat} (hx : x < c.side) (hy : y < c.side) :
    u.sampledCell c u.width.toNat u.height.toNat x y = encodedCell s.cfg c s.readPbuf x y := by
  refine Cell.eq_of_black_iff ?_
  rw [sampledCell_eq_black hx hy, hu.width, hu.height, sampleCoord_blocks c.side_pos, sampleCoord_blocks c.side_pos,
    hu.isBlack_iff _ _ (blockCentre_lt hu.k_pos hx) (blockCentre_lt hu.k_pos hy), blockCentre_div hu.k_pos,
    blockCentre_div hu.k_pos]

/-! ### Resampled rasters -/

/-- A raster that takes its pixel `(x, y)` from the pixel `(g x, g y)` of an encoder's raster shows the tag, where
`g` takes each block of side `k` into the block of the same cell. -/
theorem of_resampled {g : Nat → Nat} (hlegal : s.cfg.Legal) (hcfg : u.cfg = s.cfg) (hk : 0 < k)
    (hwidth : u.width.toNat = c.side * k) (hheight : u.height.toNat = c.side * k)
    (hg : ∀ x, x < c.side * k → g x < rasterSide s.cfg c ∧ g x / s.cfg.k = x / k)
    (hpixels : ∀ x y, x < c.side * k → y < c.side * k → u.readRmem (rasterIndex (c.side * k) x y) =
      (encodeCommit s c).complete.readRmem (rasterIndex (rasterSide s.cfg c) (g x) (g y))) : ShowsTag u s c k := by
  refine ⟨hcfg, hk, hwidth, hheight, fun x y hx hy => ?_⟩
  obtain ⟨hgx, hcolumn⟩ := hg x hx
  obtain ⟨hgy, hrow⟩ := hg y hy
  rw [isBlack, hpixels x y hx hy, hcfg, ← hcolumn, ← hrow]
  exact isBlack_encodeCommit hlegal hgx hgy

/-- Pixel `x` of a row replicated `f` times is pixel `x / f` of the row. -/
theorem replicated_source {cfg : Config} {f x : Nat} (hx : x < c.side * (f * cfg.k)) :
    x / f < rasterSide cfg c ∧ x / f / cfg.k = x / (f * cfg.k) :=
  ⟨Nat.div_lt_of_lt_mul (by rwa [rasterSide, Nat.mul_left_comm]), Nat.div_div_eq_div_mul ..⟩

/-- Pixel `x` of a row of which every `f`-th pixel is kept is pixel `f * x` of the row. -/
theorem kept_source {cfg : Config} {f x : Nat} (hf : 0 < f) (hcfg : cfg.k = f * k) (hx : x < c.side * k) :
    f * x < rasterSide cfg c ∧ f * x / cfg.k = x / k := by
  rw [rasterSide, hcfg, Nat.mul_left_comm]
  exact ⟨Nat.mul_lt_mul_of_pos_left hx hf, Nat.mul_div_mul_left _ _ hf⟩

end ShowsTag

/-! ### Every event -/

theorem step_reset (h : nextTurn s = .reset) : step s = .next s.popTurn.resetBlock := by
  rw [step, h]
  rfl

theorem step_engine_idle (h : nextTurn s = .engine) (hb : s.status.busy = false) : step s = .next s.popTurn := by
  rw [step, h, runTurn, State.popTurn_status, hb]
  rfl

theorem step_eq_next (s : State) : ∃ t, step s = .next t := by
  cases hn : nextTurn s with
  | host => exact ⟨_, step_host hn⟩
  | reset => exact ⟨_, step_reset hn⟩
  | engine =>
    cases hb : s.status.busy with
    | false => exact ⟨_, step_engine_idle hn hb⟩
    | true => rw [step_engine hn hb]; exact engineStep_eq_next _

/-! ### Commands straight after reset -/

/-- The empty string is over the alphabet but has no size's length (spec/41_encoder.md R121). -/
theorem encodeCheck_of_empty (hlen : s.len.toNat = 0) (hsize : s.size.toNat = c.side) :
    encodeCheck s = .error .lengthMismatch := by
  have hcap : 0 ≠ payloadCapacity c := by cases c <;> decide
  rw [encodeCheck_of_size (by omega) hsize, hlen, if_neg (by simp), if_pos hcap]

/-- STATUS as the host reads it when the first command since reset has completed. -/
theorem Status.toWord_start_complete : Status.zero.start.complete.toWord = 0x02 := by decide

/-- STATUS as the host reads it when the first command since reset has raised an error. -/
theorem Status.toWord_start_raise (e : ErrorKind) :
    (Status.zero.start.raise e).toWord = BitVec.ofNat 32 (0x06 + e.code * 2 ^ 4) := by
  cases e <;> decide

theorem Status.toWord_zero : Status.zero.toWord = 0x00000000 := by decide

theorem GeomOut.toWord_zero : GeomOut.zero.toWord = 0x00000000 := by decide

theorem GeomOut.toWord_small : (geomOutOf .small).toWord = 0x00040905 := by decide

theorem rowWord_blank (y : Fin 7) : rowWord Grid.blank[y] = 0x0000007F := by
  revert y
  decide

end Sys2Proof.Machine

namespace Sys2Proof.Proofs

open Sys2Proof.Machine Sys2Proof.Spec

/-- Settles O35: replication leaves blocks of side `f * K`, decimation blocks of side `K / f`; either way the raster
shows the tag, and DECODE reads every cell as it was painted. -/
theorem cleanRescaleDecodes : Obligations.CleanRescaleDecodes := by
  intro s t u n f w hlegal hs ht hf hcfg hwidth hheight hfits hrescale
  obtain ⟨c, rfl⟩ := SizeClass.exists_side_eq hs.side
  obtain rfl : (encodeCommit s c).complete = t :=
    Host.Outcome.next.inj ((exec_encode_of_encodable hs).symm.trans ht)
  have hK := k_pos_of_legal hlegal
  obtain ⟨k, rfl, hu⟩ : ∃ k, w = c.side * k ∧ ShowsTag u s c k := by
    obtain ⟨rfl, hpixels⟩ | ⟨hw, ⟨k, hk⟩, hpixels⟩ := hrescale
    · rw [Nat.mul_left_comm] at hwidth hheight hpixels ⊢
      exact ⟨_, rfl, .of_resampled hlegal hcfg (Nat.mul_pos hf hK) hwidth hheight
        (fun _ => ShowsTag.replicated_source) hpixels⟩
    · obtain rfl : w = c.side * k :=
        Nat.eq_of_mul_eq_mul_left hf (by rw [hw, hk, Nat.mul_left_comm])
      exact ⟨k, rfl, .of_resampled hlegal hcfg (Nat.pos_of_mul_pos_left (hk ▸ hK)) hwidth hheight
        (fun _ => ShowsTag.kept_source hf hk) hpixels⟩
  have hcells (x y : Nat) (hx : x < c.side) (hy : y < c.side) :
      u.sampledCell c u.width.toNat u.height.toNat x y = encodedCell s.cfg c s.readPbuf x y :=
    hu.sampledCell_eq hx hy
  exact ⟨_, hu.exec_decode hfits, rfl, toNat_ofNat_payloadCapacity c,
    fun i hi => readPbuf_decodeCommit_eq hlegal hs hu.cfg_eq hcells (toNat_ofNat_payloadCapacity c ▸ hi),
    rfl, grid_decodeCommit_eq hcells⟩

/-- Settles O19: every event has a next state, and the engine's step ends its command whether it commits or
raises (`EngineEffect`). -/
theorem everyStartedCommandCompletes : Obligations.EveryStartedCommandCompletes := by
  refine ⟨step_eq_next, fun s hb hn => ?_⟩
  obtain ⟨t, ht⟩ := engineStep_eq_next s.popTurn
  have heffect := engineStep_effect ht
  obtain ⟨hbusy, -⟩ := heffect.busy_env
  obtain ⟨hcmd, hdone⟩ := heffect.cmd_done
  exact ⟨t, (step_engine hn hb).trans ht, hbusy, hdone, hcmd⟩

/-- Settles O16: the event is `resetBlock`, whose registers are constants and whose stores list no entry. -/
theorem resetEventLeavesResetValues : Obligations.ResetEventLeavesResetValues := by
  intro s hn
  exact ⟨_, step_reset hn, rfl, Status.toWord_zero, rfl, rfl, rfl, rfl, rfl, GeomOut.toWord_zero, rowWord_blank, rfl,
    fun _ => rfl, fun _ => rfl⟩

/-- Settles O17: SIZE is 5, LEN and WIDTH are 0, and PBUF has room, so each command's own lemma says how it ends. -/
theorem straightAfterReset : Obligations.StraightAfterReset := by
  intro s hlegal
  have hroom (v : Word) : (s.resetBlock.startCommand v).len.toNat < (s.resetBlock.startCommand v).cfg.pmax := by
    obtain ⟨-, -, -, -, ⟨hpmax, -⟩, -⟩ := hlegal
    exact Nat.zero_lt_of_lt hpmax
  have hgeom := execGeom_of_size (s := s.resetBlock.startCommand 1) (c := .small) rfl
  have hencode := encodeCheck_of_empty (s := s.resetBlock.startCommand 2) (c := .small) rfl rfl
  have hdecode := decodeCheck_of_absent (s := s.resetBlock.startCommand 3) (.inl rfl)
  have hfirst : (parappResult (s.resetBlock.startCommand 4)).readPbuf 0 = s.cfg.c0 := by
    rw [readPbuf_parappResult, show (s.resetBlock.startCommand 4).len.toNat = 0 from rfl, if_pos rfl]
    exact (parityChar_eq_c0_iff (s := s.resetBlock.startCommand 4) hlegal).2 rfl
  exact ⟨⟨_, hgeom, Status.toWord_start_complete, GeomOut.toWord_small⟩,
    ⟨_, exec_encode_of_error hencode, Status.toWord_start_raise .lengthMismatch⟩,
    ⟨_, exec_decode_of_error hdecode, Status.toWord_start_raise .imageLoadFailure⟩,
    ⟨_, exec_parapp_of_room (hroom 4), Status.toWord_start_complete, hfirst, rfl⟩,
    ⟨_, exec_parchk_of_fits (hroom 5).le, Status.toWord_start_complete⟩⟩

end Sys2Proof.Proofs
end
